-- ==== Sys2Proof/Word.lean ====
section
/-! DEFINITION. The word types of the PTCC: the 32-bit port word and the 8-bit fields of a command or status word. -/

namespace Sys2Proof

/-- A port word, a register, a duration or a value (R7: `WORD = DUR_W = VAL_W = 32`). -/
abbrev Word := BitVec 32

/-- An 8-bit field of a command word or a status word (R18, R78). -/
abbrev Byte := BitVec 8

end Sys2Proof
end

