-- ==== Sys2Proof/Syntax.lean ====
section
/-! DEFINITION. The commands of the PTCC, one constructor per row of spec/opcode_table.json (R82). -/

namespace Sys2Proof

/-- The legal commands (R82). B2V carries its two arguments as the numbers `zext_32(cmd[15:8])` and
`zext_32(cmd[23:16])` of R79; no other command has an argument. -/
inductive Instr where
  /-- R163: nothing but STATUS. -/
  | nop
  /-- R98: tolerance test of OPA against OPB. -/
  | inrange
  /-- R108: value of the window BV[start..stop]. -/
  | b2v (start stop : Nat)
  /-- R109: minimal bit sequence of OPA. -/
  | v2b
  /-- R126: frame check of PULSE. -/
  | validate
  /-- R127: body pulses to BV. -/
  | demod
  /-- R164: message from BV. -/
  | bvdecode
  /-- R165: message from PULSE. -/
  | decode
  /-- R167: request check only. -/
  | reqchk
  /-- R168: pulse train from request. -/
  | encode
deriving DecidableEq, Repr

end Sys2Proof
end

