-- ==== Sys2Proof/WellFormed.lean ====
section
/-! DEFINITION. Which terms of `Instr` a command word can carry. -/

namespace Sys2Proof

/-- A B2V argument fits its 8-bit field of the command word (R78, R88: `0 ≤ a, b ≤ 255`). -/
def argumentFits (n : Nat) : Bool := decide (n ≤ 255)

/-- An instruction is well-formed when each argument fits its field of format C (R78, R79). Only B2V has arguments
(R79, R81), and every value of them is legal (R85). -/
def wellFormed : Instr → Bool
  | .nop => true
  | .inrange => true
  | .b2v start stop => argumentFits start && argumentFits stop
  | .v2b => true
  | .validate => true
  | .demod => true
  | .bvdecode => true
  | .decode => true
  | .reqchk => true
  | .encode => true

/-- The check as a proposition. -/
abbrev WellFormed (i : Instr) : Prop := wellFormed i = true

end Sys2Proof
end

