-- ==== Sys2Proof/Decode.lean ====
section
/-! DEFINITION. The decoder of a command word (R77 to R85), total on every 32-bit word and rejecting by name, and the
encoder written from the same format (R78, R82, R88). -/

namespace Sys2Proof

/-- Why a command word is illegal (R83). -/
inductive DecodeError where
  /-- R80: `RSV ≠ 0`. Safe: the spec calls the word illegal. -/
  | reservedBits
  /-- R83: OP in 0x0A..0xFF. Safe: the spec calls the word illegal. -/
  | unknownOpcode
  /-- R81: a non-zero A or B field outside B2V. Safe: the spec calls the word illegal. -/
  | strayArgument
deriving DecidableEq, Repr

/-- R78: the OP field, bits 7:0. -/
def opField (w : Word) : Byte := w.extractLsb' 0 8

/-- R78: the A field, bits 15:8. -/
def aField (w : Word) : Byte := w.extractLsb' 8 8

/-- R78: the B field, bits 23:16. -/
def bField (w : Word) : Byte := w.extractLsb' 16 8

/-- R78: the RSV field, bits 31:24. -/
def rsvField (w : Word) : Byte := w.extractLsb' 24 8

/-- R82: the opcode column, LAST_OP of each command (R18). -/
def opcode : Instr → Byte
  | .nop => 0x00
  | .inrange => 0x01
  | .b2v _ _ => 0x02
  | .v2b => 0x03
  | .validate => 0x04
  | .demod => 0x05
  | .bvdecode => 0x06
  | .decode => 0x07
  | .reqchk => 0x08
  | .encode => 0x09

/-- R82: the command an opcode selects, given the word's arguments (R79). -/
def selectCommand (op : Byte) (start stop : Nat) : Option Instr :=
  match op.toNat with
  | 0 => some .nop
  | 1 => some .inrange
  | 2 => some (.b2v start stop)
  | 3 => some .v2b
  | 4 => some .validate
  | 5 => some .demod
  | 6 => some .bvdecode
  | 7 => some .decode
  | 8 => some .reqchk
  | 9 => some .encode
  | _ => none

/-- R79: whether a command uses its A and B fields. -/
def takesArguments : Instr → Bool
  | .b2v _ _ => true
  | .nop | .inrange | .v2b | .validate | .demod | .bvdecode | .decode | .reqchk | .encode => false

/-- The decoder (R77): a legal command, or why the word is illegal (R80, R81, R83). -/
def decode (w : Word) : Except DecodeError Instr :=
  if rsvField w ≠ 0 then .error .reservedBits
  else
    match selectCommand (opField w) (aField w).toNat (bField w).toNat with
    | none => .error .unknownOpcode
    | some i =>
      if takesArguments i = false ∧ (aField w ≠ 0 ∨ bField w ≠ 0) then .error .strayArgument
      else .ok i

/-- R79, R88: the A and B arguments a command word carries. -/
def arguments : Instr → Nat × Nat
  | .b2v start stop => (start, stop)
  | .nop | .inrange | .v2b | .validate | .demod | .bvdecode | .decode | .reqchk | .encode => (0, 0)

/-- The encoder: the word of a command, `(b << 16) + (a << 8) + op` (R82, R88). -/
def encode (i : Instr) : Word :=
  BitVec.ofNat 32 ((arguments i).2 * 2 ^ 16 + (arguments i).1 * 2 ^ 8 + (opcode i).toNat)

/-- The instruction the decoder reads from the low `nbits` bits of `w`, every bit above them zero: one port word, bit 0
the least significant (R8, R86). -/
def decodeTableWord (nbits w : Nat) : Option Instr :=
  match decode (BitVec.ofNat 32 (w % 2 ^ nbits)) with
  | .ok i => some i
  | .error _ => none

end Sys2Proof
end

