-- ==== Sys2Proof/Config.lean ====
section
/-! DEFINITION. What this implementation fixes (R7, R16, and the register map's constants) and the free values the spec
leaves open (R188, 93_implementation_defined.md I1). -/

namespace Sys2Proof.Config

/-- R7: pulse buffer capacity, and the largest legal TRAIN_LEN. -/
abbrev trainMax : Nat := 512

/-- R7: bits of binary-vector storage. -/
abbrev bvStore : Nat := 256

/-- R7: largest field window width. -/
abbrev fwMax : Nat := 32

/-- R7: pattern-table command rows. -/
abbrev ptC : Nat := 8

/-- R7: pattern-table state columns. -/
abbrev ptS : Nat := 4

/-- R45: entries of the pattern memory. -/
abbrev ptEntries : Nat := 32

/-- R7, R28: the fixed epsilon denominator. -/
abbrev epsDen : Nat := 10000

/-- R2, R16: what the ID register reads. -/
def idValue : Word := 0x50544343

/-- R23, R127: what AMB_POS holds when no pair was ambiguous. -/
def noPosition : Word := 0xFFFFFFFF

/-- R18, R175: the ERR_FIELD value that names no field. -/
def noField : Byte := 0xFF

/-- FREE VALUE (R46, R58, R188, I1; log entry 2): `powerOnPulse n p` is what PULSE[p] holds after power-on reset
number `n`. It has no body, so no proof can depend on what it is. -/
opaque powerOnPulse : Nat → Nat → Word

/-- FREE VALUE (R45, R58, R188, I1, I10; log entry 2): `powerOnPattern n e` is what pattern-memory entry `e` holds
after power-on reset number `n`. -/
opaque powerOnPattern : Nat → Nat → BitVec 256

end Sys2Proof.Config
end

