-- ==== Sys2Proof/Machine/State.lean ====
section
/-! DEFINITION. The state of the PTCC (R15, R58), the inputs it has yet to take, the reasons a step can stop, and the
state after reset. -/

namespace Sys2Proof.Machine

/-- The registers of one field descriptor (R34, R35). -/
structure FieldDesc where
  /-- FD_CFG[k]: START 7:0, END 15:8, KIND 17:16, REQ 18 (R34). -/
  cfg : Word
  /-- FD_CONST[k] (R35). -/
  const : Word
  /-- FD_MIN[k] (R35). -/
  min : Word
  /-- FD_MAX[k] (R35). -/
  max : Word
deriving DecidableEq, Repr

/-- The registers of one state-map entry (R37). -/
structure MapEntry where
  /-- SM_RAW[j]. -/
  raw : Word
  /-- SM_SEM[j]: SEM 15:0, VALID 31. -/
  sem : Word
deriving DecidableEq, Repr

/-- The registers of one conflict rule (R38). -/
structure ConflictRule where
  /-- CF_CFG[c]: FA 2:0, FB 10:8, USE_VAL 30, EN 31. -/
  cfg : Word
  /-- CF_VAL[c]. -/
  val : Word
deriving DecidableEq, Repr

/-- The width of a host access. Only `word` can be expressed on the port (R63, R66). -/
inductive AccessSize where
  | byte
  | half
  | word
deriving DecidableEq, Repr

/-- What the outside world does to the PTCC: the host's port accesses (R63) at a byte offset of the 4 KiB window (R59),
and the platform's drive of the reset input (R188). -/
inductive Input where
  /-- `MemRead(addr, 4)` when `size = word` (R63). -/
  | read (addr : BitVec 12) (size : AccessSize)
  /-- `MemWrite(addr, 4, v)` when `size = word` (R63). -/
  | write (addr : BitVec 12) (size : AccessSize) (v : Word)
  /-- The platform drives the reset input: `true` asserts it, `false` releases it (R188; log entry 5). -/
  | resetLine (asserted : Bool)
deriving DecidableEq, Repr

/-- The machine. The fields down to `pulse` are the spec's (R15); BV_LEN and ID have no storage (R16, R25). The last
four are the model's own (log entries 1, 3, 5). -/
structure State where
  /-- CTRL (R17): AMB_STRICT 0, FIELD_ORDER 1, MODE 2. -/
  ctrl : Word
  /-- CMD (R19). -/
  cmd : Word
  /-- STATUS (R18). -/
  status : Word
  /-- OPA (R20). -/
  opa : Word
  /-- OPB (R20). -/
  opb : Word
  /-- RESULT (R21). -/
  result : Word
  /-- RESULT2 (R21). -/
  result2 : Word
  /-- LO (R22). -/
  lo : Word
  /-- HI (R22). -/
  hi : Word
  /-- AMB_POS (R23). -/
  ambPos : Word
  /-- PULSE_COUNT (R24): COUNT 9:0. -/
  pulseCount : Word
  /-- MSG_STAT (R26): PRESENT 7:0, DERR 15:8, KIND 30, VALID 31. -/
  msgStat : Word
  /-- TRAIN_LEN (R27): LEN 9:0. -/
  trainLen : Word
  /-- EPS_NUM (R28): NUM 15:0. -/
  epsNum : Word
  /-- HDR_LEN (R29): LEN 1:0. -/
  hdrLen : Word
  /-- HDR_D0 (R29). -/
  hdrD0 : Word
  /-- HDR_D1 (R29). -/
  hdrD1 : Word
  /-- FTR_LEN (R30): LEN 1:0. -/
  ftrLen : Word
  /-- FTR_D0 (R30). -/
  ftrD0 : Word
  /-- FTR_D1 (R30). -/
  ftrD1 : Word
  /-- LOW_D0 (R31). -/
  lowD0 : Word
  /-- LOW_D1 (R31). -/
  lowD1 : Word
  /-- HIGH_D0 (R31). -/
  highD0 : Word
  /-- HIGH_D1 (R31). -/
  highD1 : Word
  /-- GUARD_LEN (R32): LEN 7:0. -/
  guardLen : Word
  /-- PT_DIM (R33): NCMD 3:0, NSTATE 10:8. -/
  ptDim : Word
  /-- REQ_PRESENT (R39): MASK 7:0. -/
  reqPresent : Word
  /-- FD_CFG, FD_CONST, FD_MIN, FD_MAX [0..7] (R34, R35). -/
  fd : Vector FieldDesc 8
  /-- SM_RAW, SM_SEM [0..7] (R37). -/
  sm : Vector MapEntry 8
  /-- CF_CFG, CF_VAL [0..3] (R38). -/
  cf : Vector ConflictRule 4
  /-- REQ[0..7] (R40). -/
  req : Vector Word 8
  /-- MSG[0..7] (R41). -/
  msg : Vector Word 8
  /-- REQ_CMD (R42). -/
  reqCmd : Word
  /-- REQ_SIDX (R42). -/
  reqSidx : Word
  /-- MSG_CMD (R43). -/
  msgCmd : Word
  /-- MSG_SIDX (R43). -/
  msgSidx : Word
  /-- BV[0..255] (R44): `BV[i]` is bit `i`. -/
  bv : BitVec 256
  /-- PT[0..31][0..255] (R45): `PT[e][i]` is bit `i` of entry `e`. -/
  pt : Vector (BitVec 256) 32
  /-- PULSE[0..511] (R46). -/
  pulse : Vector Word 512
  /-- The inputs not yet taken, oldest first (R63, R71; log entry 1). -/
  pending : List Input
  /-- The values the reads performed so far returned, newest first (R63; log entry 1). -/
  replies : List Word
  /-- The level of the reset input (R188; log entry 5). -/
  resetAsserted : Bool
  /-- How many power-on resets came after the first one: which free values PULSE and PT were drawn from (I1; log
  entries 2, 3). -/
  powerOns : Nat
deriving DecidableEq, Repr

/-- Why the machine stops with a fault: never. "The PTCC raises no exception, takes no trap and has no exception
vector" (R172), so there is no constructor. -/
inductive Fault
deriving DecidableEq, Repr

/-- Why an input has no meaning in the model. -/
inductive Refusal where
  /-- Raised by `exec` for an instruction that has no meaning yet. Safe: nothing can be proved of it. -/
  | notModelled (mnemonic : String)
  /-- Raised by the host port for an address with `addr[1:0] ≠ 0`: "A model refuses such an access" (R66, I5). Safe. -/
  | misalignedAccess
  /-- Raised by the host port for a byte or halfword access (R66, I5: treatment `refuse`). Safe. -/
  | subWordAccess
  /-- Raised by the host port for an access while the platform asserts the reset input: "no host access is defined
  while reset is asserted" (R188, I2: treatment `refuse`). Safe. -/
  | accessDuringReset
deriving DecidableEq, Repr

/-- How a command, or a step, ends. -/
abbrev Result := Host.Outcome State Fault Refusal

/-- The free values PULSE is drawn from at power-on reset number `n` (R46, R188, I1; log entry 2). -/
def powerOnPulses (n : Nat) : Vector Word 512 :=
  Vector.ofFn fun p => Config.powerOnPulse n p

/-- The free values PT is drawn from at power-on reset number `n` (R45, R188, I1; log entry 2). -/
def powerOnPatterns (n : Nat) : Vector (BitVec 256) 32 :=
  Vector.ofFn fun e => Config.powerOnPattern n e

/-- The machine after power-on reset (R58, R188), with nothing pending at its port. -/
def State.reset : State where
  ctrl := 0
  cmd := 0
  status := 0
  opa := 0
  opb := 0
  result := 0
  result2 := 0
  lo := 0
  hi := 0
  ambPos := 0xFFFFFFFF
  pulseCount := 0
  msgStat := 0
  trainLen := 0
  epsNum := 0
  hdrLen := 0
  hdrD0 := 0
  hdrD1 := 0
  ftrLen := 0
  ftrD0 := 0
  ftrD1 := 0
  lowD0 := 0
  lowD1 := 0
  highD0 := 0
  highD1 := 0
  guardLen := 0
  ptDim := 0
  reqPresent := 0
  fd := Vector.replicate 8 ⟨0, 0, 0, 0⟩
  sm := Vector.replicate 8 ⟨0, 0⟩
  cf := Vector.replicate 4 ⟨0, 0⟩
  req := Vector.replicate 8 0
  msg := Vector.replicate 8 0
  reqCmd := 0
  reqSidx := 0
  msgCmd := 0
  msgSidx := 0
  bv := 0
  pt := powerOnPatterns 0
  pulse := powerOnPulses 0
  pending := []
  replies := []
  resetAsserted := false
  powerOns := 0

end Sys2Proof.Machine
end

