-- ==== Sys2Proof/Machine/Operands.lean ====
section
/-! DEFINITION. What the fields of the registers mean: every operand a command reads that is less than a whole register
(R17, R24, R27 to R39). A field is read from its own bits only, so a reserved bit never reaches a command (R47). -/

namespace Sys2Proof.Machine

/-- R8: bits `lo + len − 1` down to `lo` of a word, as an unsigned number. -/
def bitsOf (w : Word) (lo len : Nat) : Nat := (w.extractLsb' lo len).toNat

/-- R17, R87: the field bit order CTRL.FIELD_ORDER selects. -/
inductive BitOrder where
  /-- FIELD_ORDER = 0: the window's START is the least significant bit. -/
  | lsbAtStart
  /-- FIELD_ORDER = 1: the window's END is the least significant bit. -/
  | lsbAtEnd
deriving DecidableEq, Repr

/-- R17, R87: the message strategy CTRL.MODE selects. -/
inductive Mode where
  /-- MODE = 0: the bitfield layout (BLC). -/
  | fields
  /-- MODE = 1: the pattern table (PTAB). -/
  | patterns
deriving DecidableEq, Repr

/-- R34, R36: the kind of a field. -/
inductive FieldKind where
  | off
  | value
  | sync
  | state
deriving DecidableEq, Repr

/-- CTRL.AMB_STRICT (R17). -/
def State.ambStrict (s : State) : Bool := s.ctrl.getLsbD 0

/-- CTRL.FIELD_ORDER (R17). -/
def State.fieldOrder (s : State) : BitOrder := if s.ctrl.getLsbD 1 then .lsbAtEnd else .lsbAtStart

/-- CTRL.MODE (R17). -/
def State.mode (s : State) : Mode := if s.ctrl.getLsbD 2 then .patterns else .fields

/-- PULSE_COUNT.COUNT (R24). -/
def State.count (s : State) : Nat := bitsOf s.pulseCount 0 10

/-- TRAIN_LEN.LEN (R27). -/
def State.trainLength (s : State) : Nat := bitsOf s.trainLen 0 10

/-- EPS_NUM.NUM (R28). -/
def State.eps (s : State) : Nat := bitsOf s.epsNum 0 16

/-- HDR_LEN.LEN (R29). -/
def State.headerLength (s : State) : Nat := bitsOf s.hdrLen 0 2

/-- FTR_LEN.LEN (R30). -/
def State.footerLength (s : State) : Nat := bitsOf s.ftrLen 0 2

/-- GUARD_LEN.LEN (R32). -/
def State.guardLength (s : State) : Nat := bitsOf s.guardLen 0 8

/-- PT_DIM.NCMD (R33). -/
def State.ncmd (s : State) : Nat := bitsOf s.ptDim 0 4

/-- PT_DIM.NSTATE (R33). -/
def State.nstate (s : State) : Nat := bitsOf s.ptDim 8 3

/-- FD_CFG.START (R34). -/
def FieldDesc.start (d : FieldDesc) : Nat := bitsOf d.cfg 0 8

/-- FD_CFG.END (R34). -/
def FieldDesc.stop (d : FieldDesc) : Nat := bitsOf d.cfg 8 8

/-- FD_CFG.KIND (R34). -/
def FieldDesc.kind (d : FieldDesc) : FieldKind :=
  match bitsOf d.cfg 16 2 with
  | 0 => .off
  | 1 => .value
  | 2 => .sync
  | _ => .state

/-- FD_CFG.REQ (R34). -/
def FieldDesc.required (d : FieldDesc) : Bool := d.cfg.getLsbD 18

/-- R34, R134: the width `END − START + 1` of a window whose START is not above its END. -/
def FieldDesc.width (d : FieldDesc) : Nat := d.stop - d.start + 1

/-- R134: a message field carries a value of the structured message. -/
def FieldDesc.isMessage (d : FieldDesc) : Bool :=
  match d.kind with
  | .value | .state => true
  | .off | .sync => false

/-- SM_SEM.VALID (R37). -/
def MapEntry.valid (e : MapEntry) : Bool := e.sem.getLsbD 31

/-- `zext_32(SM_SEM.SEM)` (R37, R136). -/
def MapEntry.code (e : MapEntry) : Word := (e.sem.extractLsb' 0 16).setWidth 32

/-- CF_CFG.FA (R38). -/
def ConflictRule.fa (c : ConflictRule) : Fin 8 := (c.cfg.extractLsb' 0 3).toFin

/-- CF_CFG.FB (R38). -/
def ConflictRule.fb (c : ConflictRule) : Fin 8 := (c.cfg.extractLsb' 8 3).toFin

/-- CF_CFG.USE_VAL (R38). -/
def ConflictRule.useVal (c : ConflictRule) : Bool := c.cfg.getLsbD 30

/-- CF_CFG.EN (R38). -/
def ConflictRule.enabled (c : ConflictRule) : Bool := c.cfg.getLsbD 31

/-- The registers of field descriptor `k` (R34, R35). -/
def State.desc (s : State) (k : Fin 8) : FieldDesc := s.fd[k]

/-- The registers of conflict rule `c` (R38). -/
def State.conflict (s : State) (c : Fin 4) : ConflictRule := s.cf[c]

/-- REQ[k] (R40). -/
def State.request (s : State) (k : Fin 8) : Word := s.req[k]

/-- R135: the request supplies field `k`: its REQ_PRESENT bit is set and it is a message field. -/
def State.present (s : State) (k : Fin 8) : Bool := s.reqPresent.getLsbD k && (s.desc k).isMessage

end Sys2Proof.Machine
end

