-- ==== Sys2Proof/Machine/Flags.lean ====
section
/-! DEFINITION. The machine's only flags (R53): the error codes (R173) and the words STATUS (R18) and MSG_STAT (R26)
take at the end of a command or a decode. -/

namespace Sys2Proof.Machine

/-- R173: the named error codes. -/
inductive ErrCode where
  | lengthMismatch
  | headerMismatch
  | footerMismatch
  | startSequenceMismatch
  | syncMismatch
  | invalidState
  | ambiguousBit
  | noMatch
  | missingField
  | outOfRange
  | conflictingFields
  | boundsError
  | illegalCommand
  | configError
deriving DecidableEq, Repr

/-- R173: the number of an error code, as held in STATUS.ERR_CODE and MSG_STAT.DERR. -/
def ErrCode.byte : ErrCode → Byte
  | .lengthMismatch => 0x01
  | .headerMismatch => 0x02
  | .footerMismatch => 0x03
  | .startSequenceMismatch => 0x04
  | .syncMismatch => 0x10
  | .invalidState => 0x11
  | .ambiguousBit => 0x12
  | .noMatch => 0x13
  | .missingField => 0x20
  | .outOfRange => 0x21
  | .conflictingFields => 0x22
  | .boundsError => 0x23
  | .illegalCommand => 0x30
  | .configError => 0x31

/-- The two arguments of `fail(code, field)` (R12). -/
structure Failure where
  code : ErrCode
  field : Byte
deriving DecidableEq, Repr

/-- A failure that names no field (R175). -/
def Failure.plain (code : ErrCode) : Failure := ⟨code, Config.noField⟩

/-- A failure that names field `k` (R175). -/
def Failure.at (code : ErrCode) (k : Nat) : Failure := ⟨code, BitVec.ofNat 8 k⟩

/-- R18: the word `finish()` writes to STATUS. -/
def okStatus (op : Byte) (amb : Bool) : Word :=
  (op.setWidth 32 <<< 24) ||| (Config.noField.setWidth 32 <<< 16) |||
    ((BitVec.ofBool amb).setWidth 32 <<< 2) ||| (1#32 <<< 1)

/-- R18: the word `fail(code, field)` writes to STATUS. -/
def failStatus (op : Byte) (amb : Bool) (f : Failure) : Word :=
  (op.setWidth 32 <<< 24) ||| (f.field.setWidth 32 <<< 16) ||| (f.code.byte.setWidth 32 <<< 8) |||
    ((BitVec.ofBool amb).setWidth 32 <<< 2)

/-- R162: the word a decode without a message writes to MSG_STAT: `code << 8`. -/
def noMessageStat (code : ErrCode) : Word := code.byte.setWidth 32 <<< 8

/-- R138: the word a successful field decode writes to MSG_STAT, `P` the presence mask. -/
def fieldMessageStat (p : Byte) : Word := (1#32 <<< 31) ||| p.setWidth 32

/-- R154: the word a successful pattern decode writes to MSG_STAT. -/
def patternMessageStat : Word := (1#32 <<< 31) ||| (1#32 <<< 30)

end Sys2Proof.Machine
end

