-- ==== Sys2Proof/Machine/Ops.lean ====
section
/-! DEFINITION. The named operations over the buffers and registers: bit vectors as sums of weights (R65), reads and
writes of PULSE and PT, the two resets (R188, R189), and the ONE way a command ends, `finish` or `fail` (R12, R18).
The PTCC takes no exception (R172, R179); `fail` is its whole error mechanism. -/

namespace Sys2Proof.Machine

/-- `sum over i in 0..n-1 of f(i) * 2^i`, the sum the spec's pseudocode writes (R65, R100, R109). -/
def bitSum (f : Nat → Bool) : Nat → Nat
  | 0 => 0
  | n + 1 => bitSum f n + (f n).toNat * 2 ^ n

/-- The 256-bit vector whose bit `i` is `f i` (R44). -/
def vectorOf (f : Nat → Bool) : BitVec 256 := BitVec.ofNat 256 (bitSum f 256)

/-- The vector with bit `i` set to 1. -/
def setBit (v : BitVec 256) (i : Nat) : BitVec 256 := v ||| (1#256 <<< i)

/-- Word `w` of a 256-bit vector: bits `32·w .. 32·w + 31` (R44, R45, R65). -/
def wordOf (v : BitVec 256) (w : Nat) : Word := v.extractLsb' (32 * w) 32

/-- The vector with word `w` replaced (R44, R45, R65). -/
def setWord (v : BitVec 256) (w : Nat) (x : Word) : BitVec 256 :=
  (v &&& ~~~((0xFFFFFFFF#32).setWidth 256 <<< (32 * w))) ||| (x.setWidth 256 <<< (32 * w))

/-- `PULSE[p]` (R9). No rule reads an index above 511; the model answers 0 there (log entry 11). -/
def State.pulseAt (s : State) (p : Nat) : Word := s.pulse[p]?.getD 0

/-- `PULSE[p] <- d`. No rule writes an index above 511; the model writes nothing there (log entry 11). -/
def writePulse (v : Vector Word 512) (p : Nat) (d : Word) : Vector Word 512 := v.setIfInBounds p d

/-- `PT[e]` (R9, R45). No rule reads an entry above 31; the model answers 0 there (log entry 11). -/
def State.patternAt (s : State) (e : Nat) : BitVec 256 := s.pt[e]?.getD 0

/-- Soft reset (R189): every register at its reset value, BV cleared, PT and PULSE kept. What is not the PTCC's (the
inputs to come, the values read) stays. -/
def softReset (s : State) : State :=
  { State.reset with
    pt := s.pt, pulse := s.pulse
    pending := s.pending, replies := s.replies, resetAsserted := s.resetAsserted, powerOns := s.powerOns }

/-- Power-on reset (R188): every register at its reset value, BV cleared, PT and PULSE drawn afresh (I1; log
entries 2, 3). -/
def powerOnReset (s : State) : State :=
  { State.reset with
    pt := powerOnPatterns (s.powerOns + 1), pulse := powerOnPulses (s.powerOns + 1)
    pending := s.pending, replies := s.replies, resetAsserted := false, powerOns := s.powerOns + 1 }

/-- `finish()` (R12, R18): the success status, with LAST_OP `op` and the command's AMB. -/
def finish (op : Byte) (amb : Bool) (s : State) : Result := .next { s with status := okStatus op amb }

/-- `fail(code, field)` (R12, R18): the failure status; nothing else. -/
def fail (op : Byte) (amb : Bool) (f : Failure) (s : State) : Result :=
  .next { s with status := failStatus op amb f }

/-- `no_message(code, field)` (R162): MSG_STAT says there is no message and why, then `fail(code, field)`. -/
def noMessage (op : Byte) (amb : Bool) (f : Failure) (s : State) : Result :=
  fail op amb f { s with msgStat := noMessageStat f.code }

end Sys2Proof.Machine
end

