-- ==== Sys2Proof/Machine/Matcher.lean ====
section
/-! DEFINITION. The Tolerance Matcher (40_matcher.md) and INRANGE. -/

namespace Sys2Proof.Machine

/-- R90: `hi(ref) = (ref * (DEN + NUM)) // DEN`, exact. -/
def upperBound (num : Nat) (ref : Word) : Nat := ref.toNat * (Config.epsDen + num) / Config.epsDen

/-- R90, R91: `lo(ref) = (ref * (DEN − NUM)) // DEN`, and 0 when `NUM > DEN`. -/
def lowerBound (num : Nat) (ref : Word) : Nat :=
  if num ≤ Config.epsDen then ref.toNat * (Config.epsDen - num) / Config.epsDen else 0

/-- R90: `match(obs, ref)`, a closed interval compared exactly. -/
def matchesRef (num : Nat) (obs ref : Word) : Bool :=
  decide (lowerBound num ref ≤ obs.toNat) && decide (obs.toNat ≤ upperBound num ref)

/-- R10: `sat_32(v) = min(v, 2^32 − 1)`. -/
def sat32 (v : Nat) : Word := BitVec.ofNat 32 (min v (2 ^ 32 - 1))

/-- R90, R96: `match` under the protocol's one epsilon. -/
def State.accepts (s : State) (obs ref : Word) : Bool := matchesRef s.eps obs ref

/-- INRANGE (R98). -/
def execInrange (s : State) : Result :=
  finish (opcode .inrange) false
    { s with
      lo := sat32 (lowerBound s.eps s.opb)
      hi := sat32 (upperBound s.eps s.opb)
      result := if s.accepts s.opa s.opb then 1 else 0 }

end Sys2Proof.Machine
end

