-- ==== Sys2Proof/Machine/BitCodec.lean ====
section
/-! DEFINITION. The Bit-Order Codec (41_bitcodec.md), B2V and V2B. -/

namespace Sys2Proof.Machine

/-- R100: the value of the window `vec[first..last]`. -/
def b2v (order : BitOrder) (vec : BitVec 256) (first last : Nat) : Word :=
  BitVec.ofNat 32
    (match order with
     | .lsbAtStart => bitSum (fun i => vec.getLsbD (first + i)) (last - first + 1)
     | .lsbAtEnd => bitSum (fun i => vec.getLsbD (last - i)) (last - first + 1))

/-- R101: the length of the minimal bit sequence of `v`. -/
def minLen (v : Word) : Nat := if v = 0 then 1 else Nat.log2 v.toNat + 1

/-- R102: element `i` of the minimal bit sequence of `v`. -/
def seqBit (order : BitOrder) (v : Word) (i : Nat) : Bool :=
  match order with
  | .lsbAtStart => v.getLsbD i
  | .lsbAtEnd => v.getLsbD (minLen v - 1 - i)

/-- R104: the canvas position that element `i` of the sequence of `v` takes in the window `[first, last]`; in
`lsbAtEnd` it is the source's `fieldEnd − length + i + 1`. -/
def placePosition (order : BitOrder) (v : Word) (first last i : Nat) : Nat :=
  match order with
  | .lsbAtStart => first + i
  | .lsbAtEnd => last + i + 1 - minLen v

/-- R104: `place(v, s, e)`: the 1-bits of the sequence of `v`, and only they, are written. -/
def place (order : BitOrder) (v : Word) (first last : Nat) (canvas : BitVec 256) : BitVec 256 :=
  (List.range (minLen v)).foldl
    (fun c i => if seqBit order v i then setBit c (placePosition order v first last i) else c) canvas

/-- B2V (R108). -/
def execB2v (start stop : Nat) (s : State) : Result :=
  if start > stop then fail (opcode (.b2v start stop)) false (.plain .boundsError) s
  else if stop - start + 1 > 32 then fail (opcode (.b2v start stop)) false (.plain .boundsError) s
  else finish (opcode (.b2v start stop)) false { s with result := b2v s.fieldOrder s.bv start stop }

/-- V2B (R109). -/
def execV2b (s : State) : Result :=
  finish (opcode .v2b) false
    { s with
      result := BitVec.ofNat 32 (bitSum (seqBit s.fieldOrder s.opa) (minLen s.opa))
      result2 := BitVec.ofNat 32 (minLen s.opa) }

end Sys2Proof.Machine
end

