-- ==== Sys2Proof/Machine/Framer.lean ====
section
/-! DEFINITION. The Pulse-Train Framer (42_framer.md): configuration checks, frame checks, classification, VALIDATE,
DEMOD and synthesis. A check answers `none` when it passes and the failure it ends the command with otherwise. -/

namespace Sys2Proof.Machine

/-- R114: the failure of `cfg_global()`. -/
def geometryError : Failure := .plain .configError

/-- R114: `cfg_global()`, its conditions in the order the rule tests them. -/
def cfgGlobal (s : State) : Option Failure :=
  let h := s.headerLength
  let f := s.footerLength
  let t := s.trainLength
  if ¬(h = 1 ∨ h = 2) then some geometryError
  else if ¬(f = 1 ∨ f = 2) then some geometryError
  else if t > Config.trainMax then some geometryError
  else if t < h + f then some geometryError
  else if (t - h - f) % 2 ≠ 0 then some geometryError
  else if s.guardLength > (t - h - f) / 2 then some geometryError
  else none

/-- R25: BV_LEN, computed at the moment it is read. -/
def State.bvLen (s : State) : Nat :=
  match cfgGlobal s with
  | none => (s.trainLength - s.headerLength - s.footerLength) / 2
  | some _ => 0

/-- R115: the check of one field descriptor, `n = BV_LEN`. -/
def cfgField (n : Nat) (d : FieldDesc) (k : Fin 8) : Option Failure :=
  if d.kind = .off then none
  else if d.start > d.stop then some (.at .configError k)
  else if d.stop ≥ n then some (.at .configError k)
  else if d.width > Config.fwMax then some (.at .configError k)
  else if d.kind = .sync ∧ minLen d.const > d.width then some (.at .configError k)
  else none

/-- R115: `cfg_mode()`. -/
def cfgMode (s : State) : Option Failure :=
  match s.mode with
  | .fields => (List.finRange 8).findSome? fun k => cfgField s.bvLen (s.desc k) k
  | .patterns =>
    if s.ncmd > Config.ptC then some (.plain .configError)
    else if s.nstate > Config.ptS then some (.plain .configError)
    else none

/-- R116: `cfg_global()` and then `cfg_mode()`. -/
def cfgAll (s : State) : Option Failure :=
  match cfgGlobal s with
  | some f => some f
  | none => cfgMode s

/-- R117: `length_ok()`. -/
def lengthOk (s : State) : Bool := decide (s.count = s.trainLength)

/-- R118: `header_ok()`. -/
def headerOk (s : State) : Bool :=
  s.accepts (s.pulseAt 0) s.hdrD0 && (decide (s.headerLength ≠ 2) || s.accepts (s.pulseAt 1) s.hdrD1)

/-- R119: `footer_ok()`. -/
def footerOk (s : State) : Bool :=
  let q := s.trainLength - s.footerLength
  s.accepts (s.pulseAt q) s.ftrD0 && (decide (s.footerLength ≠ 2) || s.accepts (s.pulseAt (q + 1)) s.ftrD1)

/-- R122: the first pulse index of body pair `i`. -/
def State.pairIndex (s : State) (i : Nat) : Nat := s.headerLength + 2 * i

/-- R122: body pair `i` matches the HIGH waveform. -/
def pairHigh (s : State) (i : Nat) : Bool :=
  s.accepts (s.pulseAt (s.pairIndex i)) s.highD0 && s.accepts (s.pulseAt (s.pairIndex i + 1)) s.highD1

/-- R122: body pair `i` matches the LOW waveform. -/
def pairLow (s : State) (i : Nat) : Bool :=
  s.accepts (s.pulseAt (s.pairIndex i)) s.lowD0 && s.accepts (s.pulseAt (s.pairIndex i + 1)) s.lowD1

/-- R122: `cls(i).bit`: HIGH is tested first. -/
def clsBit (s : State) (i : Nat) : Bool := pairHigh s i

/-- R122: `cls(i).amb`. -/
def clsAmb (s : State) (i : Nat) : Bool := !pairHigh s i && !pairLow s i

/-- R120: `guard_ok()`. -/
def guardOk (s : State) : Bool := (List.range s.guardLength).all fun i => !clsBit s i

/-- R126, R165: the frame checks, in the order both commands test them. -/
def frameCheck (s : State) : Option Failure :=
  if ¬lengthOk s then some (.plain .lengthMismatch)
  else if ¬headerOk s then some (.plain .headerMismatch)
  else if ¬footerOk s then some (.plain .footerMismatch)
  else if ¬guardOk s then some (.plain .startSequenceMismatch)
  else none

/-- R127: the lowest binary-vector index whose pair is ambiguous. -/
def firstAmbiguous (s : State) : Option Nat := (List.range s.bvLen).find? (clsAmb s)

/-- R127: `amb` of `demod_body()`. -/
def demodAmb (s : State) : Bool := (firstAmbiguous s).isSome

/-- R127: the 256 bits `demod_body()` writes. -/
def demodVector (s : State) : BitVec 256 := vectorOf fun i => decide (i < s.bvLen) && clsBit s i

/-- R127: `demod_body()`: BV and AMB_POS. -/
def demodBody (s : State) : State :=
  { s with
    bv := demodVector s
    ambPos := match firstAmbiguous s with
      | some i => BitVec.ofNat 32 i
      | none => Config.noPosition }

/-- VALIDATE (R126). -/
def execValidate (s : State) : Result :=
  match cfgGlobal s with
  | some f => fail (opcode .validate) false f s
  | none =>
    match frameCheck s with
    | some f => fail (opcode .validate) false f s
    | none => finish (opcode .validate) false s

/-- DEMOD (R127). -/
def execDemod (s : State) : Result :=
  match cfgGlobal s with
  | some f => fail (opcode .demod) false f s
  | none =>
    if ¬lengthOk s then fail (opcode .demod) false (.plain .lengthMismatch) s
    else if demodAmb s && s.ambStrict then
      fail (opcode .demod) (demodAmb s) (.plain .ambiguousBit) (demodBody s)
    else finish (opcode .demod) (demodAmb s) (demodBody s)

/-- R128: the two writes of body pair `i`. -/
def synthPair (s : State) (canvas : BitVec 256) (v : Vector Word 512) (i : Nat) : Vector Word 512 :=
  if canvas.getLsbD i then
    writePulse (writePulse v (s.pairIndex i) s.highD0) (s.pairIndex i + 1) s.highD1
  else
    writePulse (writePulse v (s.pairIndex i) s.lowD0) (s.pairIndex i + 1) s.lowD1

/-- R128: the body of the train. -/
def synthBody (s : State) (canvas : BitVec 256) : Vector Word 512 :=
  (List.range s.bvLen).foldl (synthPair s canvas) s.pulse

/-- R128: the header. -/
def synthHeader (s : State) (v : Vector Word 512) : Vector Word 512 :=
  let v0 := writePulse v 0 s.hdrD0
  if s.headerLength = 2 then writePulse v0 1 s.hdrD1 else v0

/-- R128: the footer. -/
def synthFooter (s : State) (v : Vector Word 512) : Vector Word 512 :=
  let v0 := writePulse v (s.trainLength - s.footerLength) s.ftrD0
  if s.footerLength = 2 then writePulse v0 (s.trainLength - 1) s.ftrD1 else v0

/-- R128: `synth()`: the train of the canvas in PULSE, and its length in PULSE_COUNT. -/
def synth (s : State) (canvas : BitVec 256) : State :=
  { s with
    pulse := synthFooter s (synthHeader s (synthBody s canvas))
    pulseCount := BitVec.ofNat 32 s.trainLength }

end Sys2Proof.Machine
end

