-- ==== Sys2Proof/Machine/FieldLayout.lean ====
section
/-! DEFINITION. The Bitfield Layout Codec (43_fieldlayout.md): the state map, field decode, the request check and field
encode. -/

namespace Sys2Proof.Machine

/-- R136: `raw2sem(raw)`. -/
def rawToSem (s : State) (raw : Word) : Option Word :=
  (s.sm.toList.find? fun e => e.valid && decide (e.raw = raw)).map MapEntry.code

/-- R136: `sem2raw(code)`. -/
def semToRaw (s : State) (code : Word) : Option Word :=
  (s.sm.toList.find? fun e => e.valid && decide (e.code = code)).map MapEntry.raw

/-- R137: the raw value of field `k`. -/
def fieldRaw (s : State) (k : Fin 8) : Word := b2v s.fieldOrder s.bv (s.desc k).start (s.desc k).stop

/-- R137: what field `k` decodes to, or how its decode fails. -/
def decodeField (s : State) (k : Fin 8) : Except Failure Word :=
  match (s.desc k).kind with
  | .off => .ok 0
  | .value => .ok (fieldRaw s k)
  | .sync => if fieldRaw s k ≠ (s.desc k).const then .error (.at .syncMismatch k) else .ok (fieldRaw s k)
  | .state =>
    match rawToSem s (fieldRaw s k) with
    | none => .error (.at .invalidState k)
    | some code => .ok code

/-- The failure of field `k`, if it fails. -/
def fieldFailure (s : State) (k : Fin 8) : Option Failure :=
  match decodeField s k with
  | .error f => some f
  | .ok _ => none

/-- `val[k]` of R137; a field that fails has none, and its decode ends before any is used. -/
def fieldValue (s : State) (k : Fin 8) : Word :=
  match decodeField s k with
  | .ok v => v
  | .error _ => 0

/-- R138: PRESENT, bit `k` set exactly for a message field. -/
def presentMask (s : State) : Byte :=
  BitVec.ofNat 8 (bitSum (fun k => (s.fd[k]?.map FieldDesc.isMessage).getD false) 8)

/-- R137, R138: `fdecode()`: the first failing field, or the state with the message written. -/
def fieldDecode (s : State) : Except Failure State :=
  match (List.finRange 8).findSome? (fieldFailure s) with
  | some f => .error f
  | none =>
    .ok { s with
          msg := Vector.ofFn fun k => fieldValue s k
          msgStat := fieldMessageStat (presentMask s) }

/-- R142: field `k` is required and missing. -/
def missingField (s : State) (k : Fin 8) : Option Failure :=
  if (s.desc k).required && (s.desc k).isMessage && !s.present k then some (.at .missingField k) else none

/-- R143: the request value of a present field `k` is out of range. -/
def outOfRangeField (s : State) (k : Fin 8) : Option Failure :=
  if ¬s.present k then none
  else
    match (s.desc k).kind with
    | .value =>
      if s.request k < (s.desc k).min ∨ s.request k > (s.desc k).max then some (.at .outOfRange k)
      else if minLen (s.request k) > (s.desc k).width then some (.at .outOfRange k)
      else none
    | .state =>
      match semToRaw s (s.request k) with
      | none => some (.at .outOfRange k)
      | some r => if minLen r > (s.desc k).width then some (.at .outOfRange k) else none
    | .off | .sync => none

/-- R144: conflict rule `c` fires. -/
def conflictFires (s : State) (c : Fin 4) : Bool :=
  (s.conflict c).enabled && s.present (s.conflict c).fa && s.present (s.conflict c).fb &&
    (!(s.conflict c).useVal || decide (s.request (s.conflict c).fb = (s.conflict c).val))

/-- R144: the failure of conflict rule `c`, which names field FA. -/
def conflictFailure (s : State) (c : Fin 4) : Option Failure :=
  if conflictFires s c then some (.at .conflictingFields (s.conflict c).fa) else none

/-- R141: `fcheck()`: three passes, each in ascending order. -/
def fieldCheck (s : State) : Option Failure :=
  match (List.finRange 8).findSome? (missingField s) with
  | some f => some f
  | none =>
    match (List.finRange 8).findSome? (outOfRangeField s) with
    | some f => some f
    | none => (List.finRange 4).findSome? (conflictFailure s)

/-- R146: the value `fencode()` places for field `k`. -/
def valueToPlace (s : State) (k : Fin 8) : Word :=
  match (s.desc k).kind with
  | .off => 0
  | .value => if s.present k then s.request k else 0
  | .state => if s.present k then (semToRaw s (s.request k)).getD 0 else 0
  | .sync => (s.desc k).const

/-- R146: the step of `fencode()` for field `k`. -/
def encodeField (s : State) (canvas : BitVec 256) (k : Fin 8) : BitVec 256 :=
  if (s.desc k).kind = .off then canvas
  else place s.fieldOrder (valueToPlace s k) (s.desc k).start (s.desc k).stop canvas

/-- R146: `fencode()` on the cleared canvas of R168. -/
def fieldCanvas (s : State) : BitVec 256 := (List.finRange 8).foldl (encodeField s) 0

end Sys2Proof.Machine
end

