-- ==== Sys2Proof/Machine/PatternTable.lean ====
section
/-! DEFINITION. The Pattern-Table Codec (44_patterntable.md): pattern decode, the pattern request check and pattern
encode. -/

namespace Sys2Proof.Machine

/-- R45, R151: the pattern-memory entry of command index `c` and state index `st`. -/
def entryIndex (c st : Nat) : Nat := 4 * c + st

/-- R153: entry (c, st) equals the binary vector in bits `0 .. BV_LEN − 1`. -/
def entryMatches (s : State) (e : Nat × Nat) : Bool :=
  (List.range s.bvLen).all fun i => (s.patternAt (entryIndex e.1 e.2)).getLsbD i == s.bv.getLsbD i

/-- R153: the entries in use, in scan order. -/
def scanOrder (s : State) : List (Nat × Nat) :=
  (List.range s.ncmd).flatMap fun c => (List.range s.nstate).map fun st => (c, st)

/-- R153, R154: `pdecode()`: no match, or the state with the message of the first match written. -/
def patternDecode (s : State) : Except Failure State :=
  match (scanOrder s).find? (entryMatches s) with
  | none => .error (.plain .noMatch)
  | some (c, st) =>
    .ok { s with
          msgCmd := BitVec.ofNat 32 c
          msgSidx := BitVec.ofNat 32 st
          msgStat := patternMessageStat }

/-- R157: `pcheck()`. -/
def patternCheck (s : State) : Option Failure :=
  if s.reqCmd.toNat ≥ s.ncmd then some (.at .outOfRange 0)
  else if s.reqSidx.toNat ≥ s.nstate then some (.at .outOfRange 1)
  else none

/-- R158: `pencode()` on the cleared canvas of R168. -/
def patternCanvas (s : State) : BitVec 256 :=
  vectorOf fun i =>
    decide (i < s.bvLen) && (s.patternAt (entryIndex s.reqCmd.toNat s.reqSidx.toNat)).getLsbD i

end Sys2Proof.Machine
end

