-- ==== Sys2Proof/Machine/Commands.lean ====
section
/-! DEFINITION. The entry-point commands (45_commands.md): NOP, BVDECODE, DECODE, REQCHK, ENCODE, and the outcome of an
illegal command word (30_encoding.md R83). -/

namespace Sys2Proof.Machine

/-- R164, R165: the message strategy CTRL.MODE selects, on the BV the state holds. -/
def decodeMessage (s : State) : Except Failure State :=
  match s.mode with
  | .fields => fieldDecode s
  | .patterns => patternDecode s

/-- R167, R168: the request check CTRL.MODE selects. -/
def requestCheck (s : State) : Option Failure :=
  match s.mode with
  | .fields => fieldCheck s
  | .patterns => patternCheck s

/-- R168: the canvas after `fencode()` or `pencode()`. -/
def encodeCanvas (s : State) : BitVec 256 :=
  match s.mode with
  | .fields => fieldCanvas s
  | .patterns => patternCanvas s

/-- How the steps of DECODE after its configuration checks end: the state they leave, the AMB they computed, and their
failure, if any. -/
structure TrainDecode where
  state : State
  amb : Bool
  failure : Option Failure
deriving DecidableEq, Repr

/-- R165, R169: the steps of DECODE after its configuration checks, which ENCODE's echo performs too. -/
def decodeTrain (s : State) : TrainDecode :=
  match frameCheck s with
  | some f => ⟨s, false, some f⟩
  | none =>
    if demodAmb s && s.ambStrict then ⟨demodBody s, demodAmb s, some (.plain .ambiguousBit)⟩
    else
      match decodeMessage (demodBody s) with
      | .error f => ⟨demodBody s, demodAmb s, some f⟩
      | .ok t => ⟨t, demodAmb s, none⟩

/-- R169: `echo_decode()`: a failure writes MSG_STAT and nothing else. -/
def echoDecode (s : State) : State :=
  match (decodeTrain s).failure with
  | none => (decodeTrain s).state
  | some f => { (decodeTrain s).state with msgStat := noMessageStat f.code }

/-- NOP (R163). -/
def execNop (s : State) : Result := finish (opcode .nop) false s

/-- BVDECODE (R164). -/
def execBvdecode (s : State) : Result :=
  match cfgAll s with
  | some f => noMessage (opcode .bvdecode) false f s
  | none =>
    match decodeMessage s with
    | .error f => noMessage (opcode .bvdecode) false f s
    | .ok t => finish (opcode .bvdecode) false t

/-- DECODE (R165). -/
def execDecode (s : State) : Result :=
  match cfgAll s with
  | some f => noMessage (opcode .decode) false f s
  | none =>
    match (decodeTrain s).failure with
    | some f => noMessage (opcode .decode) (decodeTrain s).amb f (decodeTrain s).state
    | none => finish (opcode .decode) (decodeTrain s).amb (decodeTrain s).state

/-- REQCHK (R167). -/
def execReqchk (s : State) : Result :=
  match cfgAll s with
  | some f => fail (opcode .reqchk) false f s
  | none =>
    match requestCheck s with
    | some f => fail (opcode .reqchk) false f s
    | none => finish (opcode .reqchk) false s

/-- ENCODE (R168): the train of the request, then the echo decode of it. -/
def execEncode (s : State) : Result :=
  match cfgAll s with
  | some f => fail (opcode .encode) false f s
  | none =>
    match requestCheck s with
    | some f => fail (opcode .encode) false f s
    | none => finish (opcode .encode) false (echoDecode (synth s (encodeCanvas s)))

/-- R83: an illegal command word changes nothing but STATUS; LAST_OP is its OP field. -/
def illegalCommand (w : Word) (s : State) : Result := fail (opField w) false (.plain .illegalCommand) s

end Sys2Proof.Machine
end

