-- ==== Sys2Proof/Machine/Dispatch.lean ====
section
/-! DEFINITION. One arm per command, each a call of its meaning. -/

namespace Sys2Proof.Machine

def exec (i : Instr) (s : State) : Host.Outcome State Fault Refusal :=
  match i with
  | .nop => Sys2Proof.Machine.execNop s
  | .inrange => Sys2Proof.Machine.execInrange s
  | .b2v start stop => Sys2Proof.Machine.execB2v start stop s
  | .v2b => Sys2Proof.Machine.execV2b s
  | .validate => Sys2Proof.Machine.execValidate s
  | .demod => Sys2Proof.Machine.execDemod s
  | .bvdecode => Sys2Proof.Machine.execBvdecode s
  | .decode => Sys2Proof.Machine.execDecode s
  | .reqchk => Sys2Proof.Machine.execReqchk s
  | .encode => Sys2Proof.Machine.execEncode s

end Sys2Proof.Machine
end

