-- ==== Sys2Proof/Machine/RegisterMap.lean ====
section
/-! DEFINITION. The register map of the 4 KiB window (10_state.md section 2): which register sits at an offset, what a
read of it returns, and what a write stores (R47, R48). -/

namespace Sys2Proof.Machine

/-- The registers of the map (R15). -/
inductive Reg where
  | id | ctrl | cmd | status | opa | opb | result | result2 | lo | hi | ambPos | pulseCount | bvLen | msgStat
  | trainLen | epsNum | hdrLen | hdrD0 | hdrD1 | ftrLen | ftrD0 | ftrD1 | lowD0 | lowD1 | highD0 | highD1
  | guardLen | ptDim | reqPresent
  | fdCfg (k : Fin 8) | fdConst (k : Fin 8) | fdMin (k : Fin 8) | fdMax (k : Fin 8)
  | smRaw (j : Fin 8) | smSem (j : Fin 8)
  | cfCfg (c : Fin 4) | cfVal (c : Fin 4)
  | req (k : Fin 8) | msg (k : Fin 8)
  | reqCmd | reqSidx | msgCmd | msgSidx
  | bvw (w : Fin 8)
  | ptw (e : Fin 32) (w : Fin 8)
  | pulse (p : Fin 512)
deriving DecidableEq, Repr

/-- The offset column of the map. -/
def Reg.offset : Reg → Nat
  | .id => 0x000 | .ctrl => 0x004 | .cmd => 0x008 | .status => 0x00C
  | .opa => 0x010 | .opb => 0x014 | .result => 0x018 | .result2 => 0x01C
  | .lo => 0x020 | .hi => 0x024 | .ambPos => 0x028 | .pulseCount => 0x02C
  | .bvLen => 0x030 | .msgStat => 0x034
  | .trainLen => 0x040 | .epsNum => 0x044 | .hdrLen => 0x048 | .hdrD0 => 0x04C
  | .hdrD1 => 0x050 | .ftrLen => 0x054 | .ftrD0 => 0x058 | .ftrD1 => 0x05C
  | .lowD0 => 0x060 | .lowD1 => 0x064 | .highD0 => 0x068 | .highD1 => 0x06C
  | .guardLen => 0x070 | .ptDim => 0x074 | .reqPresent => 0x078
  | .fdCfg k => 0x100 + 16 * k | .fdConst k => 0x104 + 16 * k
  | .fdMin k => 0x108 + 16 * k | .fdMax k => 0x10C + 16 * k
  | .smRaw j => 0x180 + 8 * j | .smSem j => 0x184 + 8 * j
  | .cfCfg c => 0x1C0 + 8 * c | .cfVal c => 0x1C4 + 8 * c
  | .req k => 0x200 + 4 * k | .msg k => 0x220 + 4 * k
  | .reqCmd => 0x240 | .reqSidx => 0x244 | .msgCmd => 0x248 | .msgSidx => 0x24C
  | .bvw w => 0x300 + 4 * w
  | .ptw e w => 0x400 + 32 * e + 4 * w
  | .pulse p => 0x800 + 4 * p

/-- The registers at word offsets 0x000 to 0x07C, by word number. -/
def controlRegAt (n : Nat) : Option Reg :=
  match n with
  | 0 => some .id | 1 => some .ctrl | 2 => some .cmd | 3 => some .status
  | 4 => some .opa | 5 => some .opb | 6 => some .result | 7 => some .result2
  | 8 => some .lo | 9 => some .hi | 10 => some .ambPos | 11 => some .pulseCount
  | 12 => some .bvLen | 13 => some .msgStat
  | 16 => some .trainLen | 17 => some .epsNum | 18 => some .hdrLen | 19 => some .hdrD0
  | 20 => some .hdrD1 | 21 => some .ftrLen | 22 => some .ftrD0 | 23 => some .ftrD1
  | 24 => some .lowD0 | 25 => some .lowD1 | 26 => some .highD0 | 27 => some .highD1
  | 28 => some .guardLen | 29 => some .ptDim | 30 => some .reqPresent
  | _ => none

/-- The registers of field descriptor `k`, by word number within its 16 bytes. -/
def fieldRegAt (k : Fin 8) (n : Nat) : Reg :=
  match n with
  | 0 => .fdCfg k
  | 1 => .fdConst k
  | 2 => .fdMin k
  | _ => .fdMax k

/-- The pattern request and message registers at 0x240 to 0x24C, by word number from 0x240. -/
def patternRegAt (n : Nat) : Reg :=
  match n with
  | 0 => .reqCmd
  | 1 => .reqSidx
  | 2 => .msgCmd
  | _ => .msgSidx

/-- The register at an aligned byte offset of the window; `none` where the offset is unmapped (R49). -/
def regAt (off : Nat) : Option Reg :=
  if off < 0x100 then controlRegAt (off / 4)
  else if off < 0x180 then some (fieldRegAt (Fin.ofNat 8 ((off - 0x100) / 16)) (off % 16 / 4))
  else if off < 0x1C0 then
    some (if off % 8 < 4 then .smRaw (Fin.ofNat 8 ((off - 0x180) / 8)) else .smSem (Fin.ofNat 8 ((off - 0x180) / 8)))
  else if off < 0x1E0 then
    some (if off % 8 < 4 then .cfCfg (Fin.ofNat 4 ((off - 0x1C0) / 8)) else .cfVal (Fin.ofNat 4 ((off - 0x1C0) / 8)))
  else if off < 0x200 then none
  else if off < 0x220 then some (.req (Fin.ofNat 8 ((off - 0x200) / 4)))
  else if off < 0x240 then some (.msg (Fin.ofNat 8 ((off - 0x220) / 4)))
  else if off < 0x250 then some (patternRegAt ((off - 0x240) / 4))
  else if off < 0x300 then none
  else if off < 0x320 then some (.bvw (Fin.ofNat 8 ((off - 0x300) / 4)))
  else if off < 0x400 then none
  else if off < 0x800 then
    some (.ptw (Fin.ofNat 32 ((off - 0x400) / 32)) (Fin.ofNat 8 (off % 32 / 4)))
  else if off < 0x1000 then some (.pulse (Fin.ofNat 512 ((off - 0x800) / 4)))
  else none

/-- The access column: a register the host may write; a write to any other is ignored (R48). -/
def Reg.writable : Reg → Bool
  | .id | .status | .result | .result2 | .lo | .hi | .ambPos | .bvLen | .msgStat | .msg _ | .msgCmd | .msgSidx => false
  | .ctrl | .cmd | .opa | .opb | .pulseCount | .trainLen | .epsNum | .hdrLen | .hdrD0 | .hdrD1 | .ftrLen | .ftrD0
  | .ftrD1 | .lowD0 | .lowD1 | .highD0 | .highD1 | .guardLen | .ptDim | .reqPresent | .fdCfg _ | .fdConst _ | .fdMin _
  | .fdMax _ | .smRaw _ | .smSem _ | .cfCfg _ | .cfVal _ | .req _ | .reqCmd | .reqSidx | .bvw _ | .ptw _ _
  | .pulse _ => true

/-- The bits of a register that are not reserved: a reserved bit reads 0 and ignores writes (R47). CTRL.SRST reads 0
(R17) and STATUS.BUSY is never seen as 1 (R18), so neither is among them. -/
def Reg.fieldMask : Reg → Word
  | .ctrl => 0x00000007
  | .status => 0xFFFFFF06
  | .pulseCount => 0x000003FF
  | .bvLen => 0x000000FF
  | .msgStat => 0xC000FFFF
  | .trainLen => 0x000003FF
  | .epsNum => 0x0000FFFF
  | .hdrLen => 0x00000003
  | .ftrLen => 0x00000003
  | .guardLen => 0x000000FF
  | .ptDim => 0x0000070F
  | .reqPresent => 0x000000FF
  | .fdCfg _ => 0x0007FFFF
  | .smSem _ => 0x8000FFFF
  | .cfCfg _ => 0xC0000707
  | .id | .cmd | .opa | .opb | .result | .result2 | .lo | .hi | .ambPos | .hdrD0 | .hdrD1 | .ftrD0 | .ftrD1
  | .lowD0 | .lowD1 | .highD0 | .highD1 | .fdConst _ | .fdMin _ | .fdMax _ | .smRaw _ | .cfVal _ | .req _ | .msg _
  | .reqCmd | .reqSidx | .msgCmd | .msgSidx | .bvw _ | .ptw _ _ | .pulse _ => 0xFFFFFFFF

/-- `reg[NAME]`: what a read of a register returns (R11, R63). -/
def readReg (s : State) : Reg → Word
  | .id => Config.idValue
  | .ctrl => s.ctrl
  | .cmd => s.cmd
  | .status => s.status
  | .opa => s.opa
  | .opb => s.opb
  | .result => s.result
  | .result2 => s.result2
  | .lo => s.lo
  | .hi => s.hi
  | .ambPos => s.ambPos
  | .pulseCount => s.pulseCount
  | .bvLen => BitVec.ofNat 32 s.bvLen
  | .msgStat => s.msgStat
  | .trainLen => s.trainLen
  | .epsNum => s.epsNum
  | .hdrLen => s.hdrLen
  | .hdrD0 => s.hdrD0
  | .hdrD1 => s.hdrD1
  | .ftrLen => s.ftrLen
  | .ftrD0 => s.ftrD0
  | .ftrD1 => s.ftrD1
  | .lowD0 => s.lowD0
  | .lowD1 => s.lowD1
  | .highD0 => s.highD0
  | .highD1 => s.highD1
  | .guardLen => s.guardLen
  | .ptDim => s.ptDim
  | .reqPresent => s.reqPresent
  | .fdCfg k => s.fd[k].cfg
  | .fdConst k => s.fd[k].const
  | .fdMin k => s.fd[k].min
  | .fdMax k => s.fd[k].max
  | .smRaw j => s.sm[j].raw
  | .smSem j => s.sm[j].sem
  | .cfCfg c => s.cf[c].cfg
  | .cfVal c => s.cf[c].val
  | .req k => s.req[k]
  | .msg k => s.msg[k]
  | .reqCmd => s.reqCmd
  | .reqSidx => s.reqSidx
  | .msgCmd => s.msgCmd
  | .msgSidx => s.msgSidx
  | .bvw w => wordOf s.bv w
  | .ptw e w => wordOf s.pt[e] w
  | .pulse p => s.pulse[p]

/-- The store of a word in a writable register; a read-only register has none (R48). -/
def putReg (s : State) (r : Reg) (v : Word) : State :=
  match r with
  | .id | .status | .result | .result2 | .lo | .hi | .ambPos | .bvLen | .msgStat | .msg _ | .msgCmd | .msgSidx => s
  | .ctrl => { s with ctrl := v }
  | .cmd => { s with cmd := v }
  | .opa => { s with opa := v }
  | .opb => { s with opb := v }
  | .pulseCount => { s with pulseCount := v }
  | .trainLen => { s with trainLen := v }
  | .epsNum => { s with epsNum := v }
  | .hdrLen => { s with hdrLen := v }
  | .hdrD0 => { s with hdrD0 := v }
  | .hdrD1 => { s with hdrD1 := v }
  | .ftrLen => { s with ftrLen := v }
  | .ftrD0 => { s with ftrD0 := v }
  | .ftrD1 => { s with ftrD1 := v }
  | .lowD0 => { s with lowD0 := v }
  | .lowD1 => { s with lowD1 := v }
  | .highD0 => { s with highD0 := v }
  | .highD1 => { s with highD1 := v }
  | .guardLen => { s with guardLen := v }
  | .ptDim => { s with ptDim := v }
  | .reqPresent => { s with reqPresent := v }
  | .fdCfg k => { s with fd := s.fd.set k { s.fd[k] with cfg := v } }
  | .fdConst k => { s with fd := s.fd.set k { s.fd[k] with const := v } }
  | .fdMin k => { s with fd := s.fd.set k { s.fd[k] with min := v } }
  | .fdMax k => { s with fd := s.fd.set k { s.fd[k] with max := v } }
  | .smRaw j => { s with sm := s.sm.set j { s.sm[j] with raw := v } }
  | .smSem j => { s with sm := s.sm.set j { s.sm[j] with sem := v } }
  | .cfCfg c => { s with cf := s.cf.set c { s.cf[c] with cfg := v } }
  | .cfVal c => { s with cf := s.cf.set c { s.cf[c] with val := v } }
  | .req k => { s with req := s.req.set k v }
  | .reqCmd => { s with reqCmd := v }
  | .reqSidx => { s with reqSidx := v }
  | .bvw w => { s with bv := setWord s.bv w v }
  | .ptw e w => { s with pt := s.pt.set e (setWord s.pt[e] w v) }
  | .pulse p => { s with pulse := s.pulse.set p v }

/-- `reg[NAME] <- v` by the host: the register keeps its fields' bits of the value written and no other (R47). -/
def writeReg (s : State) (r : Reg) (v : Word) : State := putReg s r (v &&& r.fieldMask)

end Sys2Proof.Machine
end

