-- ==== Sys2Proof/Machine/HostPort.lean ====
section
/-! DEFINITION. What one input does: a host access (R63 to R71), the command a write to CMD runs (R19, R77, R161), the
soft reset a write to CTRL performs (R189), and the reset input (R188). -/

namespace Sys2Proof.Machine

/-- R77, R161: the command of the word just stored in CMD: a legal one's meaning, or IllegalCommand (R83). -/
def runCommand (w : Word) (s : State) : Result :=
  match decode w with
  | .ok i => exec i s
  | .error _ => illegalCommand w s

/-- `MemRead` at an aligned offset: the register's value, or 0 where the offset is unmapped (R49, R63). -/
def portRead (s : State) (off : Nat) : Word :=
  match regAt off with
  | some r => readReg s r
  | none => 0

/-- `MemWrite` to a mapped register: CMD stores the word and runs it (R19); CTRL with SRST = 1 resets (R189); every
other write only stores (R68). -/
def writeMapped (s : State) (r : Reg) (v : Word) : Result :=
  if r = .cmd then runCommand v (writeReg s .cmd v)
  else if r = .ctrl ∧ v.getLsbD 31 then .next (softReset s)
  else .next (writeReg s r v)

/-- `MemWrite` at an aligned offset; a write to an unmapped offset is ignored (R49). -/
def portWrite (s : State) (off : Nat) (v : Word) : Result :=
  match regAt off with
  | some r => writeMapped s r v
  | none => .next s

/-- Why an access is refused: reset is asserted (I2), or the port cannot express the access (R66, I5). -/
def accessRefusal (s : State) (addr : BitVec 12) (size : AccessSize) : Option Refusal :=
  if s.resetAsserted then some .accessDuringReset
  else if size ≠ .word then some .subWordAccess
  else if addr.extractLsb' 0 2 ≠ 0 then some .misalignedAccess
  else none

/-- The reset input changes level: power-on reset happens when it is released after having been asserted (R188; log
entry 5). -/
def driveReset (s : State) (asserted : Bool) : State :=
  if asserted then { s with resetAsserted := true }
  else if s.resetAsserted then powerOnReset s
  else s

/-- One input, taken by the machine between commands (R67, R70, R71). -/
def acceptInput (s : State) : Input → Result
  | .read addr size =>
    match accessRefusal s addr size with
    | some r => .refused r
    | none => .next { s with replies := portRead s addr.toNat :: s.replies }
  | .write addr size v =>
    match accessRefusal s addr size with
    | some r => .refused r
    | none => portWrite s addr.toNat v
  | .resetLine asserted => .next (driveReset s asserted)

/-- Takes the oldest pending input; with none the machine is idle and holds its state (R185; log entry 1). -/
def takeInput (s : State) : Result :=
  match s.pending with
  | [] => .next s
  | i :: rest => acceptInput { s with pending := rest } i

/-- The input that starts the command of word `w`: `MemWrite(CMD, 4, w)` (R19, R77). -/
def commandInput (w : Word) : Input := .write (BitVec.ofNat 12 Reg.cmd.offset) .word w

/-- The machine about to be given the command of word `w`: out of reset, with the write to CMD its next input. -/
def State.offerCommand (s : State) (w : Word) : State :=
  { s with resetAsserted := false, pending := commandInput w :: s.pending }

end Sys2Proof.Machine
end

