-- ==== Sys2Proof/Machine/Step.lean ====
section
/-! DEFINITION. One step of the machine: the oldest pending input, taken whole (R67, R70, R71). The PTCC fetches
nothing (R13, R60); the next instruction is the next write to CMD. -/

namespace Sys2Proof.Machine

/-- One step. -/
def step (s : State) : Host.Outcome State Fault Refusal := takeInput s

/-- `s` with the command word whose low `nbits` bits are `w` written to CMD by its next step. -/
def State.withFetchWord (s : State) (nbits w : Nat) : State := s.offerCommand (BitVec.ofNat 32 (w % 2 ^ nbits))

end Sys2Proof.Machine
end

