-- ==== Sys2Proof/Safety.lean ====
section
/-! DEFINITION. The terms claims are made in: the conditions of the spec's checks as propositions written from the rules
(not from the checks' own code), and what a legal state of the machine is. -/

namespace Sys2Proof.Machine

/-- R90, R91: `lo(ref) ≤ obs ≤ hi(ref)` with the exact bounds, `lo = 0` for `NUM > 10000`. -/
abbrev Accepts (num : Nat) (obs ref : Word) : Prop :=
  (num ≤ 10000 → ref.toNat * (10000 - num) / 10000 ≤ obs.toNat) ∧
    obs.toNat ≤ ref.toNat * (10000 + num) / 10000

/-- R25, R114: the body length `N = (T − H − F) / 2` of the frame geometry. -/
abbrev bodyBits (s : State) : Nat := (s.trainLength - s.headerLength - s.footerLength) / 2

/-- R114: every condition of `cfg_global()` holds. -/
abbrev GeometryLegal (s : State) : Prop :=
  (s.headerLength = 1 ∨ s.headerLength = 2) ∧ (s.footerLength = 1 ∨ s.footerLength = 2) ∧
    s.trainLength ≤ 512 ∧ s.headerLength + s.footerLength ≤ s.trainLength ∧
    (s.trainLength - s.headerLength - s.footerLength) % 2 = 0 ∧ s.guardLength ≤ bodyBits s

/-- R115: an enabled field's window, and the constant of a SYNC field, are legal for a vector of `n` bits. -/
abbrev WindowLegal (n : Nat) (d : FieldDesc) : Prop :=
  d.kind ≠ .off →
    d.start ≤ d.stop ∧ d.stop < n ∧ d.width ≤ 32 ∧ (d.kind = .sync → minLen d.const ≤ d.width)

/-- R115: `cfg_mode()` passes with MODE = 0. -/
abbrev LayoutLegal (s : State) : Prop := ∀ k : Fin 8, WindowLegal (bodyBits s) (s.desc k)

/-- R115: `cfg_mode()` passes with MODE = 1. -/
abbrev TableLegal (s : State) : Prop := s.ncmd ≤ 8 ∧ s.nstate ≤ 4

/-- R115: `cfg_mode()` passes. -/
abbrev ModeLegal (s : State) : Prop :=
  (s.mode = .fields → LayoutLegal s) ∧ (s.mode = .patterns → TableLegal s)

/-- R118: the header durations lie in their windows. -/
abbrev HeaderInWindow (s : State) : Prop :=
  Accepts s.eps (s.pulseAt 0) s.hdrD0 ∧ (s.headerLength = 2 → Accepts s.eps (s.pulseAt 1) s.hdrD1)

/-- R119: the footer durations lie in their windows. -/
abbrev FooterInWindow (s : State) : Prop :=
  Accepts s.eps (s.pulseAt (s.trainLength - s.footerLength)) s.ftrD0 ∧
    (s.footerLength = 2 → Accepts s.eps (s.pulseAt (s.trainLength - 1)) s.ftrD1)

/-- R113, R122: body pair `i` matches the waveform (d0, d1). -/
abbrev PairMatches (s : State) (i : Nat) (d0 d1 : Word) : Prop :=
  Accepts s.eps (s.pulseAt (s.headerLength + 2 * i)) d0 ∧
    Accepts s.eps (s.pulseAt (s.headerLength + 2 * i + 1)) d1

/-- R122: body pair `i` is classified high. -/
abbrev PairHigh (s : State) (i : Nat) : Prop := PairMatches s i s.highD0 s.highD1

/-- R122: body pair `i` matches neither waveform. -/
abbrev PairAmbiguous (s : State) (i : Nat) : Prop :=
  ¬PairMatches s i s.highD0 s.highD1 ∧ ¬PairMatches s i s.lowD0 s.lowD1

/-- R127: some body pair is ambiguous. -/
abbrev SomeAmbiguous (s : State) : Prop := ∃ i, i < bodyBits s ∧ PairAmbiguous s i

/-- R120: none of the guard's pairs is high. -/
abbrev GuardClear (s : State) : Prop := ∀ i, i < s.guardLength → ¬PairHigh s i

/-- R126: the train passes every frame check. -/
abbrev TrainFramed (s : State) : Prop :=
  s.count = s.trainLength ∧ HeaderInWindow s ∧ FooterInWindow s ∧ GuardClear s

/-- R124: the LOW waveform does not match the HIGH waveform as a pair. -/
abbrev Separable (s : State) : Prop :=
  ¬(Accepts s.eps s.lowD0 s.highD0 ∧ Accepts s.eps s.lowD1 s.highD1)

/-- R137: field `k` decodes from the BV of `s`. -/
abbrev FieldDecodes (s : State) (k : Fin 8) : Prop :=
  ((s.desc k).kind = .sync → fieldRaw s k = (s.desc k).const) ∧
    ((s.desc k).kind = .state → rawToSem s (fieldRaw s k) ≠ none)

/-- R137: `val[k]`, where field `k` decodes. -/
def decodedValue (s : State) (k : Fin 8) : Word :=
  match (s.desc k).kind with
  | .off => 0
  | .value => fieldRaw s k
  | .sync => (s.desc k).const
  | .state => (rawToSem s (fieldRaw s k)).getD 0

/-- R137: the error code of field `k`, where it does not decode. -/
def fieldErrorCode (s : State) (k : Fin 8) : Byte := if (s.desc k).kind = .sync then 0x10 else 0x11

/-- R138: MSG_STAT of a field message: VALID, and bit `k` for each message field `k`. -/
abbrev IsFieldMessageStat (s : State) (w : Word) : Prop :=
  w.getLsbD 31 = true ∧ w.getLsbD 30 = false ∧ w.extractLsb' 8 22 = 0 ∧
    ∀ k : Fin 8, w.getLsbD k = (s.desc k).isMessage

/-- R151, R153: pattern entry (c, st) equals the bits `v[0 .. N−1]`. -/
abbrev EntryEquals (s : State) (v : BitVec 256) (c st : Nat) : Prop :=
  ∀ i, i < bodyBits s → (s.patternAt (4 * c + st)).getLsbD i = v.getLsbD i

/-- R153: the scan meets (c, st) before (c', st'). -/
abbrev ScannedBefore (c st c' st' : Nat) : Prop := c < c' ∨ (c = c' ∧ st < st')

/-- R142: field `k` is required, a message field, and not supplied. -/
abbrev Missing (s : State) (k : Fin 8) : Prop :=
  (s.desc k).required = true ∧ (s.desc k).isMessage = true ∧ s.reqPresent.getLsbD k = false

/-- R135: field `k` is supplied. -/
abbrev Supplied (s : State) (k : Fin 8) : Prop := s.reqPresent.getLsbD k = true ∧ (s.desc k).isMessage = true

/-- R143: field `k` is supplied with a value out of range. -/
abbrev ValueOutOfRange (s : State) (k : Fin 8) : Prop :=
  Supplied s k ∧
    (((s.desc k).kind = .value ∧
        ((s.request k).toNat < (s.desc k).min.toNat ∨ (s.desc k).max.toNat < (s.request k).toNat ∨
          (s.desc k).width < minLen (s.request k))) ∨
      ((s.desc k).kind = .state ∧
        (semToRaw s (s.request k) = none ∨ (s.desc k).width < minLen ((semToRaw s (s.request k)).getD 0))))

/-- R146: `v` is the value an encode places for enabled field `k`. -/
abbrev ValueToEncode (s : State) (k : Fin 8) (v : Word) : Prop :=
  ((s.desc k).kind = .value ∧ ((Supplied s k ∧ v = s.request k) ∨ (¬Supplied s k ∧ v = 0))) ∨
    ((s.desc k).kind = .state ∧
      ((Supplied s k ∧ semToRaw s (s.request k) = some v) ∨ (¬Supplied s k ∧ v = 0))) ∨
    ((s.desc k).kind = .sync ∧ v = (s.desc k).const)

/-- R144: conflict rule `c` fires. -/
abbrev Conflicts (s : State) (c : Fin 4) : Prop :=
  (s.conflict c).enabled = true ∧ Supplied s (s.conflict c).fa ∧ Supplied s (s.conflict c).fb ∧
    ((s.conflict c).useVal = true → s.request (s.conflict c).fb = (s.conflict c).val)

/-- R141: the field request passes `fcheck()`. -/
abbrev RequestLegal (s : State) : Prop :=
  (∀ k, ¬Missing s k) ∧ (∀ k, ¬ValueOutOfRange s k) ∧ ∀ c, ¬Conflicts s c

/-- R157: the pattern request passes `pcheck()`. -/
abbrev PatternRequestLegal (s : State) : Prop := s.reqCmd.toNat < s.ncmd ∧ s.reqSidx.toNat < s.nstate

/-- R167: the request passes the check CTRL.MODE selects. -/
abbrev RequestPasses (s : State) : Prop :=
  (s.mode = .fields → RequestLegal s) ∧ (s.mode = .patterns → PatternRequestLegal s)

/-- R18: STATUS as `finish()` leaves it. -/
abbrev okWord (op : Byte) (amb : Bool) : Word :=
  BitVec.ofNat 32 (op.toNat * 2 ^ 24 + 0xFF * 2 ^ 16 + amb.toNat * 4 + 2)

/-- R18: STATUS as `fail(code, field)` leaves it. -/
abbrev failWord (op code field : Byte) (amb : Bool) : Word :=
  BitVec.ofNat 32 (op.toNat * 2 ^ 24 + field.toNat * 2 ^ 16 + code.toNat * 2 ^ 8 + amb.toNat * 4)

/-- R162: MSG_STAT as a decode without a message leaves it. -/
abbrev noMessageWord (code : Byte) : Word := BitVec.ofNat 32 (code.toNat * 2 ^ 8)

/-- R175: the number of field `k` in ERR_FIELD. -/
abbrev fieldByte (k : Fin 8) : Byte := BitVec.ofNat 8 k

/-- R18: STATUS.LAST_OP. -/
abbrev lastOp (w : Word) : Byte := w.extractLsb' 24 8

/-- R18: STATUS.ERR_FIELD. -/
abbrev errField (w : Word) : Byte := w.extractLsb' 16 8

/-- R18, R26: STATUS.ERR_CODE, and MSG_STAT.DERR. -/
abbrev errCode (w : Word) : Byte := w.extractLsb' 8 8

/-- R173: the "reported by" column: which commands end with an error code. -/
def ReportedBy (code op : Byte) : Prop :=
  match code.toNat with
  | 0x01 => op = 4 ∨ op = 5 ∨ op = 7
  | 0x02 => op = 4 ∨ op = 7
  | 0x03 => op = 4 ∨ op = 7
  | 0x04 => op = 4 ∨ op = 7
  | 0x10 => op = 6 ∨ op = 7
  | 0x11 => op = 6 ∨ op = 7
  | 0x12 => op = 5 ∨ op = 7
  | 0x13 => op = 6 ∨ op = 7
  | 0x20 => op = 8 ∨ op = 9
  | 0x21 => op = 8 ∨ op = 9
  | 0x22 => op = 8 ∨ op = 9
  | 0x23 => op = 2
  | 0x30 => True
  | 0x31 => op = 4 ∨ op = 5 ∨ op = 6 ∨ op = 7 ∨ op = 8 ∨ op = 9
  | _ => False

/-- R173, R175: the ERR_FIELD column: which field numbers an error code comes with. -/
def NamesField (code field : Byte) : Prop :=
  match code.toNat with
  | 0x10 | 0x11 | 0x20 | 0x21 | 0x22 => field.toNat < 8
  | 0x31 => field.toNat < 8 ∨ field = 0xFF
  | _ => field = 0xFF

/-- R18, R173, R175: what STATUS may hold: its reset value, a success, or an error that the last command reports. -/
def StatusLegal (w : Word) : Prop :=
  w = 0 ∨
    ((w.getLsbD 2 = true → lastOp w = 5 ∨ lastOp w = 7) ∧
      ((w.getLsbD 1 = true ∧ errCode w = 0 ∧ errField w = 0xFF ∧ (lastOp w).toNat ≤ 9) ∨
        (w.getLsbD 1 = false ∧ ReportedBy (errCode w) (lastOp w) ∧ NamesField (errCode w) (errField w))))

/-- R26, R173: what MSG_STAT may hold: no message, with the code a decode reports; a field message; a pattern
message. -/
def MessageStatLegal (w : Word) : Prop :=
  (w.getLsbD 31 = false ∧ w.getLsbD 30 = false ∧ w.extractLsb' 0 8 = 0 ∧
      (errCode w = 0 ∨ ReportedBy (errCode w) 7 ∨ ReportedBy (errCode w) 6)) ∨
    (w.getLsbD 31 = true ∧ w.getLsbD 30 = false ∧ errCode w = 0) ∨
    (w.getLsbD 31 = true ∧ w.getLsbD 30 = true ∧ errCode w = 0 ∧ w.extractLsb' 0 8 = 0)

/-- R23, R127: what AMB_POS may hold. -/
def AmbPosLegal (w : Word) : Prop := w = 0xFFFFFFFF ∨ w.toNat ≤ 254

/-- R47: every reserved bit of every register reads 0. -/
def ReservedClear (s : State) : Prop := ∀ r : Reg, readReg s r &&& ~~~r.fieldMask = 0

/-- R18, R23, R26, R173, R175: the machine's reports are ones the spec's tables list. -/
def ReportsLegal (s : State) : Prop :=
  StatusLegal s.status ∧ MessageStatLegal s.msgStat ∧ AmbPosLegal s.ambPos

end Sys2Proof.Machine
end

