-- ==== Sys2Proof/Certificates/Slice0/Obligations.lean ====
section
/-! DEFINITION. The statements about the PTCC, in the terms of Sys2Proof/Safety.lean. Each docstring names the rule of
spec/ it formalises; `N` is the body length `(T − H − F) / 2` of the frame geometry (`bodyBits`). -/

open Sys2Proof Sys2Proof.Machine

/-! ## Encoding (30_encoding.md) -/

/-- Decoding the word of a well-formed command gives the command back (R78, R79, R82). -/
def Obligations.EncodedCommandDecodesBack : Prop :=
  ∀ i : Instr, WellFormed i → decode (encode i) = .ok i

/-- A word decodes to at most one command, and it is that command's encoding: no bit of a legal word is dropped (R78,
R80, R81, R82). -/
def Obligations.LegalWordIsItsEncoding : Prop :=
  ∀ (w : Word) (i : Instr), decode w = .ok i → WellFormed i ∧ encode i = w

/-- Words written out from the table of R82 decode to the commands they stand for. -/
def Obligations.WrittenWordsDecode : Prop :=
  decode 0x00000000 = .ok .nop ∧ decode 0x00000001 = .ok .inrange ∧ decode 0x000F0002 = .ok (.b2v 0 15) ∧
    decode 0x0000FF02 = .ok (.b2v 255 0) ∧ decode 0x00000004 = .ok .validate ∧ decode 0x00000006 = .ok .bvdecode ∧
    decode 0x00000009 = .ok .encode

/-- R83: a word with OP above 0x09, RSV ≠ 0, or A or B ≠ 0 outside B2V, written to CMD, changes nothing but CMD itself
and STATUS, which reports IllegalCommand; every other word is a legal command. -/
def Obligations.IllegalWordChangesOnlyStatus : Prop :=
  ∀ (s : State) (w : Word) (rest : List Input),
    s.pending = .write 0x008 .word w :: rest → s.resetAsserted = false →
    ((10 ≤ w.toNat % 2 ^ 8 ∨ w.toNat / 2 ^ 24 ≠ 0 ∨ (w.toNat % 2 ^ 8 ≠ 2 ∧ w.toNat / 2 ^ 8 % 2 ^ 16 ≠ 0)) →
      step s = .next { s with pending := rest, cmd := w, status := failWord (BitVec.ofNat 8 w.toNat) 0x30 0xFF false }) ∧
    (¬(10 ≤ w.toNat % 2 ^ 8 ∨ w.toNat / 2 ^ 24 ≠ 0 ∨ (w.toNat % 2 ^ 8 ≠ 2 ∧ w.toNat / 2 ^ 8 % 2 ^ 16 ≠ 0)) →
      ∃ i, decode w = .ok i)

/-! ## The port and the steps (20_memory.md) -/

/-- R19, R77: when the next input writes a word to CMD and the word decodes to a well-formed command, the step stores
the word in CMD and runs exactly that command. -/
def Obligations.StepRunsDecodedCommand : Prop :=
  ∀ (s : State) (w : Word) (i : Instr) (rest : List Input),
    s.pending = .write 0x008 .word w :: rest → s.resetAsserted = false → decode w = .ok i → WellFormed i →
    step s = exec i { s with pending := rest, cmd := w }

/-- R63, R68: a MemRead at a register's offset returns that register and has no side effect. -/
def Obligations.ReadReturnsTheRegister : Prop :=
  ∀ (s : State) (r : Reg) (rest : List Input),
    s.pending = .read (BitVec.ofNat 12 r.offset) .word :: rest → s.resetAsserted = false →
    step s = .next { s with pending := rest, replies := readReg s r :: s.replies }

/-- R49: at an aligned offset that is no register's, a read returns 0 and a write is ignored; neither has a side
effect or reports an error. -/
def Obligations.UnmappedOffsetsReadZeroAndIgnoreWrites : Prop :=
  ∀ (s : State) (addr : BitVec 12) (v : Word) (rest : List Input),
    s.resetAsserted = false → addr.toNat % 4 = 0 → (∀ r : Reg, r.offset ≠ addr.toNat) →
    (s.pending = .read addr .word :: rest → step s = .next { s with pending := rest, replies := 0 :: s.replies }) ∧
    (s.pending = .write addr .word v :: rest → step s = .next { s with pending := rest })

/-- R48: a write to a read-only register is ignored and has no side effect. -/
def Obligations.ReadOnlyRegistersIgnoreWrites : Prop :=
  ∀ (s : State) (r : Reg) (v : Word) (rest : List Input),
    (r = .id ∨ r = .status ∨ r = .result ∨ r = .result2 ∨ r = .lo ∨ r = .hi ∨ r = .ambPos ∨ r = .bvLen ∨
      r = .msgStat ∨ (∃ k, r = .msg k) ∨ r = .msgCmd ∨ r = .msgSidx) →
    s.pending = .write (BitVec.ofNat 12 r.offset) .word v :: rest → s.resetAsserted = false →
    step s = .next { s with pending := rest }

/-- R47, R68: a write to a writable register other than CMD, not a soft reset, leaves the register holding its fields'
bits of the value, and every other register reads as before (BV_LEN, computed from the PDR by R25, apart). -/
def Obligations.WriteStoresTheFieldsOnly : Prop :=
  ∀ (s : State) (r : Reg) (v : Word) (rest : List Input),
    r.writable = true → r ≠ .cmd → (r = .ctrl → v.getLsbD 31 = false) →
    s.pending = .write (BitVec.ofNat 12 r.offset) .word v :: rest → s.resetAsserted = false →
    ∃ t, step s = .next t ∧ readReg t r = v &&& r.fieldMask ∧
      (∀ q : Reg, q ≠ r → q ≠ .bvLen → readReg t q = readReg s q) ∧
      t.pending = rest ∧ t.replies = s.replies ∧ t.resetAsserted = s.resetAsserted ∧ t.powerOns = s.powerOns

/-- R66, R172, I2, I5: a step ends in a next state, unless its input is an access that is misaligned, narrower than a
word, or made while reset is asserted; it then refuses, and only then. -/
def Obligations.StepRefusesOnlyImpossibleAccesses : Prop :=
  ∀ s : State,
    ((∃ x, step s = .refused x) ↔
      ∃ addr size v rest,
        (s.pending = .read addr size :: rest ∨ s.pending = .write addr size v :: rest) ∧
          (s.resetAsserted = true ∨ size ≠ .word ∨ addr.toNat % 4 ≠ 0)) ∧
    ((∃ x, step s = .refused x) ∨ ∃ t, step s = .next t)

/-- R67, R70, R71: what an input does is the same whatever inputs wait behind it, and they all still wait after it. That
they wait in a list of State is the model's choice (log entry 1). -/
def Obligations.LaterInputsAreNotSeen : Prop :=
  ∀ (s t : State) (i : Input) (rest : List Input),
    s.pending = [i] → step s = .next t → step { s with pending := i :: rest } = .next { t with pending := rest }

/-- R185: with no input pending the machine is idle and holds its state. That the inputs stand in a list of State is the
model's choice (log entry 1). -/
def Obligations.IdleMachineHoldsItsState : Prop :=
  ∀ s : State, s.pending = [] → step s = .next s

/-! ## Reset (70_reset_and_hazards.md) -/

/-- R58: after power-on reset every register but the pattern memory and the pulse buffer reads its reset value, and
every command that checks the configuration fails with ConfigError. -/
def Obligations.ResetValuesOfTheTable : Prop :=
  readReg State.reset .id = 0x50544343 ∧ readReg State.reset .ambPos = 0xFFFFFFFF ∧
    (∀ r : Reg, r ≠ .id → r ≠ .ambPos → (∀ e w, r ≠ .ptw e w) → (∀ p, r ≠ .pulse p) → readReg State.reset r = 0) ∧
    ∀ i : Instr, i = .validate ∨ i = .demod ∨ i = .bvdecode ∨ i = .decode ∨ i = .reqchk ∨ i = .encode →
      ∃ t, exec i State.reset = .next t ∧ t.status.getLsbD 1 = false ∧ errCode t.status = 0x31

/-- R190: after either reset the six frame-level commands end with ConfigError naming no field and BV_LEN reads 0;
NOP, INRANGE, V2B and a B2V of a legal window succeed, and INRANGE accepts exactly an observation equal to its
reference. -/
def Obligations.CommandsAfterReset : Prop :=
  ∀ u s : State, s = State.reset ∨ s = softReset u ∨ s = powerOnReset u →
    readReg s .bvLen = 0 ∧
    (∀ i : Instr, i = .validate ∨ i = .demod ∨ i = .bvdecode ∨ i = .decode ∨ i = .reqchk ∨ i = .encode →
      ∃ t, exec i s = .next t ∧ t.status = failWord (opcode i) 0x31 0xFF false) ∧
    (∀ i : Instr, i = .nop ∨ i = .inrange ∨ i = .v2b ∨ (∃ a b, a ≤ b ∧ b - a < 32 ∧ i = .b2v a b) →
      ∃ t, exec i s = .next t ∧ t.status = okWord (opcode i) false) ∧
    ∀ obs ref : Word, ∃ t, exec .inrange { s with opa := obs, opb := ref } = .next t ∧ (t.result = 1 ↔ obs = ref)

/-- R189: a write to CTRL with bit 31 set resets every register (what State.reset holds, see ResetValuesOfTheTable) and
keeps PT and PULSE; with bit 31 clear it is an ordinary write of CTRL's three fields. -/
def Obligations.SoftResetKeepsPatternsAndPulses : Prop :=
  ∀ (s : State) (v : Word) (rest : List Input),
    s.pending = .write 0x004 .word v :: rest → s.resetAsserted = false →
    (v.getLsbD 31 = true →
      step s = .next { State.reset with
        pt := s.pt, pulse := s.pulse, pending := rest, replies := s.replies
        resetAsserted := false, powerOns := s.powerOns }) ∧
    (v.getLsbD 31 = false → step s = .next { s with pending := rest, ctrl := v &&& 0x7 })

/-- R188: when the reset input, having been asserted, is released, every register holds its reset value; PT and PULSE
are not constrained. That an assertion alone changes nothing, and that a release needs an assertion before it, are the
model's choices (log entry 5). -/
def Obligations.ReleasedResetInputResetsTheRegisters : Prop :=
  ∀ (s : State) (rest : List Input),
    s.pending = .resetLine false :: rest → s.resetAsserted = true →
    ∃ t, step s = .next t ∧ t.resetAsserted = false ∧ t.pending = rest ∧ t.replies = s.replies ∧
      ∀ r : Reg, (∀ e w, r ≠ .ptw e w) → (∀ p, r ≠ .pulse p) → readReg t r = readReg State.reset r

/-! ## What every step keeps -/

/-- R47: every step keeps every reserved bit of every register at 0. -/
def Obligations.StepKeepsReservedBitsClear : Prop :=
  ∀ s t : State, ReservedClear s → step s = .next t → ReservedClear t

/-- R47, R58: every reserved bit is 0 after reset. -/
def Obligations.ReservedBitsClearAtReset : Prop := ReservedClear State.reset

/-- R173: no step writes to ERR_CODE or DERR a value that is not in the table, to STATUS an error its LAST_OP does not
report or a field number its error does not name, or to MSG_STAT and AMB_POS a value R26 or R127 excludes. -/
def Obligations.StepKeepsReportsLegal : Prop :=
  ∀ s t : State, ReportsLegal s → step s = .next t → ReportsLegal t

/-- R58, R173: STATUS, MSG_STAT and AMB_POS are legal after reset. -/
def Obligations.ReportsLegalAtReset : Prop := ReportsLegal State.reset

/-! ## What every command does (45_commands.md section 1, 60_exceptions.md) -/

/-- R12, R18, R161: every command ends, from every state, by success (ERR_CODE 0, ERR_FIELD 0xFF) or by failure
(ERR_CODE ≠ 0), with LAST_OP its opcode, BUSY 0 and the reserved bits 0. -/
def Obligations.EveryCommandEndsWithItsStatus : Prop :=
  ∀ (i : Instr) (s : State), ∃ t, exec i s = .next t ∧
    lastOp t.status = opcode i ∧ t.status.getLsbD 0 = false ∧ t.status.extractLsb' 3 5 = 0 ∧
    ((t.status.getLsbD 1 = true ∧ errCode t.status = 0 ∧ errField t.status = 0xFF) ∨
      (t.status.getLsbD 1 = false ∧ errCode t.status ≠ 0))

/-- R171: the complete write set of every command: it changes nothing outside its row. -/
def Obligations.CommandsWriteOnlyTheirRows : Prop :=
  ∀ s t : State,
    (exec .nop s = .next t → t = { s with status := t.status }) ∧
    (exec .inrange s = .next t →
      t = { s with status := t.status, result := t.result, lo := t.lo, hi := t.hi }) ∧
    (∀ a b, exec (.b2v a b) s = .next t →
      t = { s with status := t.status, result := t.result } ∧
        (t.status.getLsbD 1 = false → t.result = s.result)) ∧
    (exec .v2b s = .next t →
      t = { s with status := t.status, result := t.result, result2 := t.result2 }) ∧
    (exec .validate s = .next t → t = { s with status := t.status }) ∧
    (exec .demod s = .next t →
      t = { s with status := t.status, ambPos := t.ambPos, bv := t.bv } ∧
        (errCode t.status = 0x31 ∨ errCode t.status = 0x01 → t.ambPos = s.ambPos ∧ t.bv = s.bv)) ∧
    (exec .bvdecode s = .next t →
      t = { s with
            status := t.status, msgStat := t.msgStat, msg := t.msg, msgCmd := t.msgCmd, msgSidx := t.msgSidx } ∧
        (t.status.getLsbD 1 = false ∨ s.mode = .patterns → t.msg = s.msg) ∧
        (t.status.getLsbD 1 = false ∨ s.mode = .fields → t.msgCmd = s.msgCmd ∧ t.msgSidx = s.msgSidx)) ∧
    (exec .decode s = .next t →
      t = { s with
            status := t.status, ambPos := t.ambPos, bv := t.bv
            msgStat := t.msgStat, msg := t.msg, msgCmd := t.msgCmd, msgSidx := t.msgSidx } ∧
        (errCode t.status = 0x31 ∨ errCode t.status = 0x01 ∨ errCode t.status = 0x02 ∨ errCode t.status = 0x03 ∨
          errCode t.status = 0x04 → t.ambPos = s.ambPos ∧ t.bv = s.bv) ∧
        (t.status.getLsbD 1 = false ∨ s.mode = .patterns → t.msg = s.msg) ∧
        (t.status.getLsbD 1 = false ∨ s.mode = .fields → t.msgCmd = s.msgCmd ∧ t.msgSidx = s.msgSidx)) ∧
    (exec .reqchk s = .next t → t = { s with status := t.status }) ∧
    (exec .encode s = .next t →
      t = { s with
            status := t.status, ambPos := t.ambPos, bv := t.bv, pulse := t.pulse, pulseCount := t.pulseCount
            msgStat := t.msgStat, msg := t.msg, msgCmd := t.msgCmd, msgSidx := t.msgSidx } ∧
        (t.status.getLsbD 1 = false → t = { s with status := t.status }) ∧
        (∀ p, s.trainLength ≤ p → t.pulseAt p = s.pulseAt p) ∧
        (t.status.getLsbD 1 = true ∧ t.msgStat = 0x400 → t.ambPos = s.ambPos ∧ t.bv = s.bv) ∧
        (t.msgStat.getLsbD 31 = false ∨ s.mode = .patterns → t.msg = s.msg) ∧
        (t.msgStat.getLsbD 31 = false ∨ s.mode = .fields → t.msgCmd = s.msgCmd ∧ t.msgSidx = s.msgSidx)) ∧
    (∀ (w : Word) (e : DecodeError), decode w = .error e → runCommand w s = .next t →
      t = { s with status := t.status })

/-- R163: NOP is the word 0 and does nothing but set STATUS to 0x00FF0002, whatever the configuration. -/
def Obligations.NopSetsOnlyStatus : Prop :=
  decode 0x00000000 = .ok .nop ∧ ∀ s : State, exec .nop s = .next { s with status := 0x00FF0002 }

/-! ## Tolerance Matcher (40_matcher.md) -/

/-- R98: INRANGE reports the saturated bounds and whether OPA lies between the exact ones, in every state; with the
corner cases the rule lists. -/
def Obligations.InrangeReportsBoundsAndMatch : Prop :=
  ∀ s : State, ∃ t, exec .inrange s = .next t ∧
    t = { s with lo := t.lo, hi := t.hi, result := t.result, status := 0x01FF0002 } ∧
    t.lo.toNat = min (if s.eps ≤ 10000 then s.opb.toNat * (10000 - s.eps) / 10000 else 0) (2 ^ 32 - 1) ∧
    t.hi.toNat = min (s.opb.toNat * (10000 + s.eps) / 10000) (2 ^ 32 - 1) ∧
    t.result = (if Accepts s.eps s.opa s.opb then 1 else 0) ∧
    (s.opa = s.opb → t.result = 1) ∧
    (s.opb = 0 → t.lo = 0 ∧ t.hi = 0 ∧ (t.result = 1 ↔ s.opa = 0)) ∧
    (s.eps = 0 → t.lo = s.opb ∧ t.hi = s.opb) ∧
    (10000 ≤ s.eps → t.lo = 0)

/-- R94: the five properties of the matcher that follow from its formula. -/
def Obligations.MatcherHasItsFiveProperties : Prop :=
  ∀ (num : Nat) (ref obs : Word),
    matchesRef num ref ref = true ∧
    (obs.toNat = ref.toNat * (10000 + num) / 10000 + 1 → matchesRef num obs ref = false) ∧
    (num ≤ 10000 → obs.toNat + 1 = ref.toNat * (10000 - num) / 10000 → matchesRef num obs ref = false) ∧
    (num = 0 → matchesRef num obs ref = true → obs = ref) ∧
    (ref = 0 → matchesRef num obs ref = true → obs = 0)

/-! ## Bit-Order Codec (41_bitcodec.md) -/

/-- R108 (with the sums of R100): B2V writes to RESULT the value of a window of at most 32 bits of BV, in the order
FIELD_ORDER selects; a reversed or wider window ends with BoundsError and changes only STATUS. -/
def Obligations.B2vReadsTheWindow : Prop :=
  ∀ (s : State) (a b : Nat),
    (a ≤ b → b - a + 1 ≤ 32 →
      ∃ t, exec (.b2v a b) s = .next t ∧ t = { s with result := t.result, status := 0x02FF0002 } ∧
        (s.ctrl.getLsbD 1 = false →
          t.result.toNat = ∑ i ∈ Finset.range (b - a + 1), (s.bv.getLsbD (a + i)).toNat * 2 ^ i) ∧
        (s.ctrl.getLsbD 1 = true →
          t.result.toNat = ∑ i ∈ Finset.range (b - a + 1), (s.bv.getLsbD (b - i)).toNat * 2 ^ i)) ∧
    (b < a ∨ 32 < b - a + 1 → exec (.b2v a b) s = .next { s with status := 0x02FF2300 })

/-- R109 (with R101, R102): V2B writes to RESULT2 the length `L` of the minimal bit sequence of OPA, and to RESULT the
sequence: OPA itself, or with FIELD_ORDER = 1 OPA with its low `L` bits reversed. -/
def Obligations.V2bWritesTheMinimalSequence : Prop :=
  ∀ s : State, ∃ t, exec .v2b s = .next t ∧
    t = { s with result := t.result, result2 := t.result2, status := 0x03FF0002 } ∧
    (s.opa = 0 → t.result2 = 1) ∧
    (s.opa ≠ 0 → 2 ^ (t.result2.toNat - 1) ≤ s.opa.toNat ∧ s.opa.toNat < 2 ^ t.result2.toNat) ∧
    (s.ctrl.getLsbD 1 = false → t.result = s.opa) ∧
    (s.ctrl.getLsbD 1 = true → ∀ i, i < 32 →
      t.result.getLsbD i = (decide (i < t.result2.toNat) && s.opa.getLsbD (t.result2.toNat - 1 - i)))

/-- R103: a value's minimal sequence laid at the low end of a vector reads back as the value, in both orders. -/
def Obligations.SequenceReadsBackAsItsValue : Prop :=
  ∀ (order : BitOrder) (v : Word) (vec : BitVec 256),
    (∀ i, i < minLen v → vec.getLsbD i = seqBit order v i) → b2v order vec 0 (minLen v - 1) = v

/-- R105: a value placed in a cleared window it fits reads back from the window, in both orders, with its bits at the
positions the rule names and 0 in the rest of the window. -/
def Obligations.PlacedValueReadsBack : Prop :=
  ∀ (order : BitOrder) (v : Word) (first last : Nat) (canvas : BitVec 256),
    first ≤ last → last < 256 → last - first + 1 ≤ 32 → minLen v ≤ last - first + 1 →
    (∀ j, first ≤ j → j ≤ last → canvas.getLsbD j = false) →
    b2v order (place order v first last canvas) first last = v ∧
    (order = .lsbAtStart →
      (∀ i, i < minLen v → (place order v first last canvas).getLsbD (first + i) = v.getLsbD i) ∧
      ∀ j, first + minLen v ≤ j → j ≤ last → (place order v first last canvas).getLsbD j = false) ∧
    (order = .lsbAtEnd →
      (∀ i, i < minLen v →
        (place order v first last canvas).getLsbD (last + i + 1 - minLen v) = v.getLsbD (minLen v - 1 - i)) ∧
      ∀ j, first ≤ j → j + minLen v ≤ last → (place order v first last canvas).getLsbD j = false)

/-- R104, R106: a placement writes only 1s, so two placements leave the OR of both on the canvas. -/
def Obligations.PlacementsCombineByOr : Prop :=
  ∀ (order : BitOrder) (v v' : Word) (first last first' last' : Nat) (canvas : BitVec 256),
    place order v' first' last' (place order v first last canvas) =
      canvas ||| place order v first last 0 ||| place order v' first' last' 0

/-! ## Pulse-Train Framer (42_framer.md) -/

/-- R25, R114: BV_LEN reads `N` when the geometry is legal and 0 when it is not; an illegal geometry ends each of the
six frame-level commands with ConfigError naming no field, with only STATUS written, and MSG_STAT by the decodes; with
a legal one VALIDATE and DEMOD, which check nothing else of the configuration, report no ConfigError. -/
def Obligations.IllegalGeometryIsConfigError : Prop :=
  ∀ s : State,
    (GeometryLegal s →
      readReg s .bvLen = BitVec.ofNat 32 (bodyBits s) ∧ bodyBits s ≤ 255 ∧
        s.trainLength = s.headerLength + 2 * bodyBits s + s.footerLength ∧
        ∀ i : Instr, i = .validate ∨ i = .demod → ∃ t, exec i s = .next t ∧ errCode t.status ≠ 0x31) ∧
    (¬GeometryLegal s →
      readReg s .bvLen = 0 ∧
      exec .validate s = .next { s with status := 0x04FF3100 } ∧
      exec .demod s = .next { s with status := 0x05FF3100 } ∧
      exec .bvdecode s = .next { s with status := 0x06FF3100, msgStat := 0x3100 } ∧
      exec .decode s = .next { s with status := 0x07FF3100, msgStat := 0x3100 } ∧
      exec .reqchk s = .next { s with status := 0x08FF3100 } ∧
      exec .encode s = .next { s with status := 0x09FF3100 })

/-- R115: with a legal geometry, the lowest field whose descriptor is illegal is the one ConfigError names in field
mode; in pattern mode a table too large is ConfigError naming no field; a legal layout or table (an empty one too) is
no ConfigError. -/
def Obligations.IllegalLayoutNamesItsFirstField : Prop :=
  ∀ s : State, GeometryLegal s →
    (∀ k : Fin 8, s.mode = .fields → ¬WindowLegal (bodyBits s) (s.desc k) →
      (∀ j, j < k → WindowLegal (bodyBits s) (s.desc j)) →
      exec .bvdecode s = .next { s with status := failWord 0x06 0x31 (fieldByte k) false, msgStat := 0x3100 } ∧
      exec .decode s = .next { s with status := failWord 0x07 0x31 (fieldByte k) false, msgStat := 0x3100 } ∧
      exec .reqchk s = .next { s with status := failWord 0x08 0x31 (fieldByte k) false } ∧
      exec .encode s = .next { s with status := failWord 0x09 0x31 (fieldByte k) false }) ∧
    (s.mode = .patterns → ¬TableLegal s →
      exec .bvdecode s = .next { s with status := 0x06FF3100, msgStat := 0x3100 } ∧
      exec .decode s = .next { s with status := 0x07FF3100, msgStat := 0x3100 } ∧
      exec .reqchk s = .next { s with status := 0x08FF3100 } ∧
      exec .encode s = .next { s with status := 0x09FF3100 }) ∧
    (ModeLegal s → ∀ i : Instr, i = .bvdecode ∨ i = .decode ∨ i = .reqchk ∨ i = .encode →
      ∃ t, exec i s = .next t ∧ errCode t.status ≠ 0x31)

/-- R126, R132: VALIDATE reports the first of its checks that fails, in the order of the rule, and otherwise success;
it writes nothing but STATUS. -/
def Obligations.ValidateReportsTheFirstFailedCheck : Prop :=
  ∀ s : State,
    (¬GeometryLegal s → exec .validate s = .next { s with status := 0x04FF3100 }) ∧
    (GeometryLegal s → s.count ≠ s.trainLength → exec .validate s = .next { s with status := 0x04FF0100 }) ∧
    (GeometryLegal s → s.count = s.trainLength → ¬HeaderInWindow s →
      exec .validate s = .next { s with status := 0x04FF0200 }) ∧
    (GeometryLegal s → s.count = s.trainLength → HeaderInWindow s → ¬FooterInWindow s →
      exec .validate s = .next { s with status := 0x04FF0300 }) ∧
    (GeometryLegal s → s.count = s.trainLength → HeaderInWindow s → FooterInWindow s → ¬GuardClear s →
      exec .validate s = .next { s with status := 0x04FF0400 }) ∧
    (GeometryLegal s → s.count = s.trainLength → HeaderInWindow s → FooterInWindow s → GuardClear s →
      exec .validate s = .next { s with status := 0x04FF0002 })

/-- R121: VALIDATE's outcome does not depend on BV, the field layout, the state map, the pattern memory, or any
duration outside the header, the footer and the guard's pairs. -/
def Obligations.ValidateReadsNoPayload : Prop :=
  ∀ (s : State) (pulse' : Vector Word 512) (bv' : BitVec 256) (fd' : Vector FieldDesc 8) (sm' : Vector MapEntry 8)
    (pt' : Vector (BitVec 256) 32),
    (∀ p, p < s.trainLength →
      (p < s.headerLength ∨ s.trainLength - s.footerLength ≤ p ∨
        (s.headerLength ≤ p ∧ p < s.headerLength + 2 * s.guardLength)) → pulse'[p]? = s.pulse[p]?) →
    ∃ t t', exec .validate s = .next t ∧
      exec .validate { s with pulse := pulse', bv := bv', fd := fd', sm := sm', pt := pt' } = .next t' ∧
      t'.status = t.status

/-- R123: a HIGH pair gives 1 and a LOW pair 0 (1 exactly when LOW also matches HIGH), neither ambiguous; with equal
waveforms every pair that matches gives 1; a pair that matches one waveform in its first duration only and the other in
its second only is ambiguous and gives 0. -/
def Obligations.PairsClassifyAsTheRuleLists : Prop :=
  ∀ (s : State) (i : Nat),
    let d0 := s.pulseAt (s.headerLength + 2 * i)
    let d1 := s.pulseAt (s.headerLength + 2 * i + 1)
    (d0 = s.highD0 → d1 = s.highD1 → clsBit s i = true ∧ clsAmb s i = false) ∧
    (d0 = s.lowD0 → d1 = s.lowD1 →
      (clsBit s i = true ↔ Accepts s.eps s.lowD0 s.highD0 ∧ Accepts s.eps s.lowD1 s.highD1) ∧ clsAmb s i = false) ∧
    (s.lowD0 = s.highD0 → s.lowD1 = s.highD1 →
      PairMatches s i s.lowD0 s.lowD1 ∨ PairMatches s i s.highD0 s.highD1 → clsBit s i = true) ∧
    (Accepts s.eps d0 s.highD0 → ¬Accepts s.eps d0 s.lowD0 → Accepts s.eps d1 s.lowD1 → ¬Accepts s.eps d1 s.highD1 →
      clsBit s i = false ∧ clsAmb s i = true) ∧
    (Accepts s.eps d0 s.lowD0 → ¬Accepts s.eps d0 s.highD0 → Accepts s.eps d1 s.highD1 → ¬Accepts s.eps d1 s.lowD1 →
      clsBit s i = false ∧ clsAmb s i = true)

/-- R127: DEMOD fails before any write on a wrong geometry or length; otherwise it writes all 256 bits of BV (a body
bit is 1 exactly when its pair is high, and every other bit is 0) and AMB_POS, and fails afterwards only when a pair is
ambiguous and AMB_STRICT = 1. -/
def Obligations.DemodClassifiesTheBody : Prop :=
  ∀ s : State,
    (¬GeometryLegal s → exec .demod s = .next { s with status := 0x05FF3100 }) ∧
    (GeometryLegal s → s.count ≠ s.trainLength → exec .demod s = .next { s with status := 0x05FF0100 }) ∧
    (GeometryLegal s → s.count = s.trainLength →
      ∃ t, exec .demod s = .next t ∧ t = { s with bv := t.bv, ambPos := t.ambPos, status := t.status } ∧
        (∀ i, i < 256 → (t.bv.getLsbD i = true ↔ i < bodyBits s ∧ PairHigh s i)) ∧
        (¬SomeAmbiguous s → t.ambPos = 0xFFFFFFFF ∧ t.status = 0x05FF0002) ∧
        ∀ i, i < bodyBits s → PairAmbiguous s i → (∀ j, j < i → ¬PairAmbiguous s j) →
          t.ambPos.toNat = i ∧
            t.status = if s.ctrl.getLsbD 0 then failWord 0x05 0x12 0xFF true else okWord 0x05 true)

/-- R131: a synthesised train passes the length, header and footer checks; none of its pairs is ambiguous; a 1 of the
canvas demodulates to 1, and a 0 to 0 with separable waveforms and to 1 otherwise; with separable waveforms the guard
passes exactly when the canvas is 0 in its positions and the demodulated vector is the canvas. -/
def Obligations.SynthesisedTrainDemodulatesToItsCanvas : Prop :=
  ∀ (s : State) (canvas : BitVec 256), GeometryLegal s →
    let t := synth s canvas
    (lengthOk t = true ∧ headerOk t = true ∧ footerOk t = true) ∧
    (∀ i, i < bodyBits s → clsAmb t i = false) ∧
    (∀ i, i < bodyBits s → canvas.getLsbD i = true → clsBit t i = true) ∧
    (∀ i, i < bodyBits s → canvas.getLsbD i = false → (clsBit t i = false ↔ Separable s)) ∧
    (Separable s →
      (∀ i, i < bodyBits s → (demodVector t).getLsbD i = canvas.getLsbD i) ∧
      (guardOk t = true ↔ ∀ i, i < s.guardLength → canvas.getLsbD i = false))

/-! ## Bitfield Layout Codec (43_fieldlayout.md) -/

/-- R136: both searches of the state map take the lowest valid entry that matches, and find nothing when no valid
entry does. -/
def Obligations.StateMapTakesTheLowestEntry : Prop :=
  ∀ (s : State) (w : Word),
    (∀ j : Fin 8, s.sm[j].sem.getLsbD 31 = true → s.sm[j].raw = w →
      (∀ i, i < j → ¬(s.sm[i].sem.getLsbD 31 = true ∧ s.sm[i].raw = w)) →
      rawToSem s w = some (BitVec.ofNat 32 (s.sm[j].sem.toNat % 2 ^ 16))) ∧
    ((∀ j : Fin 8, ¬(s.sm[j].sem.getLsbD 31 = true ∧ s.sm[j].raw = w)) → rawToSem s w = none) ∧
    (∀ j : Fin 8, s.sm[j].sem.getLsbD 31 = true → s.sm[j].sem.toNat % 2 ^ 16 = w.toNat →
      (∀ i, i < j → ¬(s.sm[i].sem.getLsbD 31 = true ∧ s.sm[i].sem.toNat % 2 ^ 16 = w.toNat)) →
      semToRaw s w = some s.sm[j].raw) ∧
    ((∀ j : Fin 8, ¬(s.sm[j].sem.getLsbD 31 = true ∧ s.sm[j].sem.toNat % 2 ^ 16 = w.toNat)) → semToRaw s w = none)

/-- R138: when every field of BV decodes, BVDECODE writes the message: each MSG register its field's value, MSG_STAT
valid with PRESENT the message fields, and nothing else but STATUS. -/
def Obligations.BvdecodeWritesTheFieldMessage : Prop :=
  ∀ s : State, GeometryLegal s → s.mode = .fields → LayoutLegal s → (∀ k, FieldDecodes s k) →
    ∃ t, exec .bvdecode s = .next t ∧
      t = { s with msg := t.msg, msgStat := t.msgStat, status := 0x06FF0002 } ∧
      IsFieldMessageStat s t.msgStat ∧ ∀ k : Fin 8, t.msg[k] = decodedValue s k

/-- R140: when every field below `k` decodes and field `k` does not, a decode ends with SyncMismatch or InvalidState
naming `k` and produces no message; the message registers keep their values. -/
def Obligations.FirstFailingFieldEndsTheDecode : Prop :=
  ∀ (s : State) (k : Fin 8), GeometryLegal s → s.mode = .fields → LayoutLegal s →
    ((∀ j, j < k → FieldDecodes s j) → ¬FieldDecodes s k →
      exec .bvdecode s = .next { s with
        msgStat := noMessageWord (fieldErrorCode s k)
        status := failWord 0x06 (fieldErrorCode s k) (fieldByte k) false }) ∧
    (TrainFramed s → ¬(SomeAmbiguous s ∧ s.ctrl.getLsbD 0 = true) →
      (∀ j, j < k → FieldDecodes (demodBody s) j) → ¬FieldDecodes (demodBody s) k →
      ∃ t, exec .decode s = .next t ∧
        t = { demodBody s with msgStat := noMessageWord (fieldErrorCode s k), status := t.status } ∧
        errCode t.status = fieldErrorCode s k ∧ errField t.status = fieldByte k ∧ t.status.getLsbD 1 = false)

/-- R141 (with R142 to R144): REQCHK and ENCODE in field mode report the lowest missing field, else the lowest field
out of range, else FA of the lowest conflict rule that fires, and write nothing but STATUS; REQCHK succeeds on any other
request. -/
def Obligations.ReqchkReportsTheFirstRequestError : Prop :=
  ∀ s : State, GeometryLegal s → s.mode = .fields → LayoutLegal s →
    (∀ k : Fin 8, Missing s k → (∀ j, j < k → ¬Missing s j) →
      exec .reqchk s = .next { s with status := failWord 0x08 0x20 (fieldByte k) false } ∧
        exec .encode s = .next { s with status := failWord 0x09 0x20 (fieldByte k) false }) ∧
    (∀ k : Fin 8, (∀ j, ¬Missing s j) → ValueOutOfRange s k → (∀ j, j < k → ¬ValueOutOfRange s j) →
      exec .reqchk s = .next { s with status := failWord 0x08 0x21 (fieldByte k) false } ∧
        exec .encode s = .next { s with status := failWord 0x09 0x21 (fieldByte k) false }) ∧
    (∀ c : Fin 4, (∀ j, ¬Missing s j) → (∀ j, ¬ValueOutOfRange s j) → Conflicts s c → (∀ d, d < c → ¬Conflicts s d) →
      exec .reqchk s = .next { s with status := failWord 0x08 0x22 (fieldByte (s.conflict c).fa) false } ∧
        exec .encode s = .next { s with status := failWord 0x09 0x22 (fieldByte (s.conflict c).fa) false }) ∧
    (RequestLegal s → exec .reqchk s = .next { s with status := 0x08FF0002 })

/-! ## Pattern-Table Codec (44_patterntable.md) -/

/-- R153, R154: BVDECODE in pattern mode takes the first entry in scan order that equals BV in bits 0 .. N − 1 and
writes its indices; when no entry in use equals BV it reports NoMatch and produces no message. -/
def Obligations.BvdecodeTakesTheFirstMatchingPattern : Prop :=
  ∀ s : State, GeometryLegal s → s.mode = .patterns → TableLegal s →
    (∀ c st, c < s.ncmd → st < s.nstate → EntryEquals s s.bv c st →
      (∀ c' st', c' < s.ncmd → st' < s.nstate → ScannedBefore c' st' c st → ¬EntryEquals s s.bv c' st') →
      exec .bvdecode s = .next { s with
        msgCmd := BitVec.ofNat 32 c, msgSidx := BitVec.ofNat 32 st, msgStat := 0xC0000000, status := 0x06FF0002 }) ∧
    ((∀ c st, c < s.ncmd → st < s.nstate → ¬EntryEquals s s.bv c st) →
      exec .bvdecode s = .next { s with msgStat := 0x1300, status := 0x06FF1300 })

/-- R156: with pairwise distinct entries in use, a BV equal to entry (c, st) decodes to (c, st), and a BV that differs
from every entry in some bit below N decodes to NoMatch. -/
def Obligations.DistinctPatternsDecodeExactly : Prop :=
  ∀ s : State, GeometryLegal s → s.mode = .patterns → TableLegal s →
    (∀ c st c' st', c < s.ncmd → st < s.nstate → c' < s.ncmd → st' < s.nstate → ¬(c = c' ∧ st = st') →
      ¬EntryEquals s (s.patternAt (4 * c + st)) c' st') →
    (∀ c st, c < s.ncmd → st < s.nstate → EntryEquals s s.bv c st →
      ∃ t, exec .bvdecode s = .next t ∧ t.status = 0x06FF0002 ∧ t.msgStat = 0xC0000000 ∧
        t.msgCmd.toNat = c ∧ t.msgSidx.toNat = st) ∧
    ((∀ c st, c < s.ncmd → st < s.nstate →
        ∃ i, i < bodyBits s ∧ (s.patternAt (4 * c + st)).getLsbD i ≠ s.bv.getLsbD i) →
      ∃ t, exec .bvdecode s = .next t ∧ t.status = 0x06FF1300 ∧ t.msgStat.getLsbD 31 = false)

/-- R157: REQCHK and ENCODE in pattern mode report OutOfRange field 0 for a command index not below NCMD, else
OutOfRange field 1 for a state index not below NSTATE, and write nothing but STATUS; REQCHK succeeds on any other
request. -/
def Obligations.ReqchkChecksThePatternIndices : Prop :=
  ∀ s : State, GeometryLegal s → s.mode = .patterns → TableLegal s →
    (s.ncmd ≤ s.reqCmd.toNat →
      exec .reqchk s = .next { s with status := 0x08002100 } ∧
        exec .encode s = .next { s with status := 0x09002100 }) ∧
    (s.reqCmd.toNat < s.ncmd → s.nstate ≤ s.reqSidx.toNat →
      exec .reqchk s = .next { s with status := 0x08012100 } ∧
        exec .encode s = .next { s with status := 0x09012100 }) ∧
    (s.reqCmd.toNat < s.ncmd → s.reqSidx.toNat < s.nstate →
      exec .reqchk s = .next { s with status := 0x08FF0002 })

/-! ## The entry points (45_commands.md) -/

/-- R125, R165: DECODE of a train that passes the frame checks. With an ambiguous pair and AMB_STRICT = 1 it writes the
demodulated BV and the lowest ambiguous index, and then fails AmbiguousBit without a message. Otherwise it completes: it
leaves the demodulated BV and AMB_POS and the message of that BV, and STATUS.AMB says whether a pair was ambiguous. -/
def Obligations.DecodeProducesTheMessageOfTheTrain : Prop :=
  ∀ s : State, GeometryLegal s → ModeLegal s → TrainFramed s →
    (s.ctrl.getLsbD 0 = true → ∀ p, p < bodyBits s → PairAmbiguous s p → (∀ j, j < p → ¬PairAmbiguous s j) →
      ∃ t, exec .decode s = .next t ∧
        t = { s with bv := t.bv, ambPos := t.ambPos, msgStat := 0x1200, status := 0x07FF1204 } ∧
        (∀ i, i < 256 → (t.bv.getLsbD i = true ↔ i < bodyBits s ∧ PairHigh s i)) ∧ t.ambPos.toNat = p) ∧
    (¬(SomeAmbiguous s ∧ s.ctrl.getLsbD 0 = true) → s.mode = .fields → (∀ k, FieldDecodes (demodBody s) k) →
      ∃ t, exec .decode s = .next t ∧
        t = { demodBody s with msg := t.msg, msgStat := t.msgStat, status := t.status } ∧
        IsFieldMessageStat s t.msgStat ∧ (∀ k : Fin 8, t.msg[k] = decodedValue (demodBody s) k) ∧
        (SomeAmbiguous s → t.status = 0x07FF0006) ∧ (¬SomeAmbiguous s → t.status = 0x07FF0002)) ∧
    (¬(SomeAmbiguous s ∧ s.ctrl.getLsbD 0 = true) → s.mode = .patterns →
      (∀ c st, c < s.ncmd → st < s.nstate → EntryEquals s (demodVector s) c st →
        (∀ c' st', c' < s.ncmd → st' < s.nstate → ScannedBefore c' st' c st →
          ¬EntryEquals s (demodVector s) c' st') →
        ∃ t, exec .decode s = .next t ∧
          t = { demodBody s with
                msgCmd := BitVec.ofNat 32 c, msgSidx := BitVec.ofNat 32 st, msgStat := 0xC0000000
                status := t.status } ∧
          (SomeAmbiguous s → t.status = 0x07FF0006) ∧ (¬SomeAmbiguous s → t.status = 0x07FF0002)) ∧
      ((∀ c st, c < s.ncmd → st < s.nstate → ¬EntryEquals s (demodVector s) c st) →
        ∃ t, exec .decode s = .next t ∧
          t = { demodBody s with msgStat := 0x1300, status := t.status } ∧
          (SomeAmbiguous s → t.status = 0x07FF1304) ∧ (¬SomeAmbiguous s → t.status = 0x07FF1300)))

/-- R125, R165: when VALIDATE of a train succeeds, DECODE of it does what DEMOD does and then, if DEMOD succeeds, what
BVDECODE does on DEMOD's BV: the states are equal but for STATUS, which has DECODE's LAST_OP and DEMOD's AMB. If DEMOD
fails (a pair is ambiguous and AMB_STRICT = 1), DECODE fails AmbiguousBit on the state DEMOD leaves, without a
message. -/
def Obligations.DecodeIsValidateDemodBvdecode : Prop :=
  ∀ s v d : State, ModeLegal s →
    exec .validate s = .next v → v.status = 0x04FF0002 → exec .demod s = .next d →
    (d.status.getLsbD 1 = true → ∀ u, exec .bvdecode d = .next u →
      exec .decode s = .next { u with
        status := BitVec.ofNat 32 (7 * 2 ^ 24 + u.status.toNat % 2 ^ 24 + (d.status.getLsbD 2).toNat * 4) }) ∧
    (d.status.getLsbD 1 = false → exec .decode s = .next { d with msgStat := 0x1200, status := 0x07FF1204 })

/-- R166: DECODE never decodes a train that fails VALIDATE: it reports VALIDATE's error, produces no message, and
leaves BV and AMB_POS as they were. -/
def Obligations.DecodeRejectsWhatValidateRejects : Prop :=
  ∀ s v : State, ModeLegal s → exec .validate s = .next v → v.status.getLsbD 1 = false →
    exec .decode s = .next { s with
      msgStat := noMessageWord (errCode v.status), status := failWord 0x07 (errCode v.status) 0xFF false }

/-- R170: an ENCODE that fails leaves every register except STATUS, and every buffer, as it was; it fails exactly when
REQCHK does, with the same code and field. -/
def Obligations.FailedEncodeChangesOnlyStatus : Prop :=
  ∀ s : State, ∃ t r, exec .encode s = .next t ∧ exec .reqchk s = .next r ∧
    (t.status.getLsbD 1 = false → t = { s with status := t.status }) ∧
    (t.status.getLsbD 1 = false ↔ r.status.getLsbD 1 = false) ∧
    (t.status.getLsbD 1 = false → errCode t.status = errCode r.status ∧ errField t.status = errField r.status)

/-- R168, R169 items 1 and 2, R130: ENCODE of a request that passes completes: PULSE holds the train of the canvas (header, body
pairs chosen by the canvas bits, footer) below TRAIN_LEN and its old content above, PULSE_COUNT is TRAIN_LEN; if the
guard passes, BV is the demodulated train and AMB_POS 0xFFFFFFFF, else BV and AMB_POS are kept and MSG_STAT says
StartSequenceMismatch. -/
def Obligations.EncodeWritesTheTrainOfTheRequest : Prop :=
  ∀ s : State, GeometryLegal s → ModeLegal s → RequestPasses s →
    ∃ t, exec .encode s = .next t ∧ t.status = 0x09FF0002 ∧ t.pulseCount.toNat = s.trainLength ∧
      (∀ p, p < s.headerLength → t.pulseAt p = if p = 0 then s.hdrD0 else s.hdrD1) ∧
      (∀ i, i < bodyBits s →
        t.pulseAt (s.headerLength + 2 * i) = (if (encodeCanvas s).getLsbD i then s.highD0 else s.lowD0) ∧
        t.pulseAt (s.headerLength + 2 * i + 1) = (if (encodeCanvas s).getLsbD i then s.highD1 else s.lowD1)) ∧
      (∀ j, j < s.footerLength →
        t.pulseAt (s.trainLength - s.footerLength + j) = if j = 0 then s.ftrD0 else s.ftrD1) ∧
      (∀ p, s.trainLength ≤ p → t.pulseAt p = s.pulseAt p) ∧
      (GuardClear t → t.ambPos = 0xFFFFFFFF ∧
        ∀ i, i < 256 → (t.bv.getLsbD i = true ↔ i < bodyBits s ∧ PairHigh t i)) ∧
      (¬GuardClear t → t.bv = s.bv ∧ t.ambPos = s.ambPos ∧ t.msgStat = 0x400)

/-- R169 item 3: after an ENCODE that succeeds, the message registers, BV and AMB_POS hold what DECODE of that train
writes: a DECODE run next changes nothing but STATUS. -/
def Obligations.DecodeAfterEncodeChangesOnlyStatus : Prop :=
  ∀ s t : State, exec .encode s = .next t → t.status.getLsbD 1 = true →
    ∃ u, exec .decode t = .next u ∧ u = { t with status := u.status }

/-- R149: the field round trip: with a legal layout of disjoint windows, separable waveforms, a request that passes,
and a state map that reads each supplied state back, ENCODE's echo either fails the guard (a field places a 1 in it) or
returns every supplied value, 0 for an absent VALUE field, raw2sem(0) for an absent STATE field (InvalidState if raw 0
is not mapped) and the constant of every SYNC field. -/
def Obligations.EncodedFieldsDecodeToTheRequest : Prop :=
  ∀ s : State, GeometryLegal s → s.mode = .fields → LayoutLegal s → Separable s →
    (∀ j k : Fin 8, j ≠ k → (s.desc j).kind ≠ .off → (s.desc k).kind ≠ .off →
      (s.desc j).stop < (s.desc k).start ∨ (s.desc k).stop < (s.desc j).start) →
    RequestLegal s →
    (∀ k, Supplied s k → (s.desc k).kind = .state →
      (semToRaw s (s.request k)).bind (rawToSem s) = some (s.request k)) →
    ∃ t, exec .encode s = .next t ∧ t.status = 0x09FF0002 ∧
      ((∃ i, i < s.guardLength ∧ (encodeCanvas s).getLsbD i = true) → t.msgStat = 0x400 ∧ t.msg = s.msg) ∧
      ((∀ i, i < s.guardLength → (encodeCanvas s).getLsbD i = false) →
        ((∀ k, (s.desc k).kind = .state → ¬Supplied s k → rawToSem s 0 ≠ none) →
          IsFieldMessageStat s t.msgStat ∧
          (∀ k : Fin 8, Supplied s k → t.msg[k] = s.request k) ∧
          (∀ k : Fin 8, (s.desc k).kind = .value → ¬Supplied s k → t.msg[k] = 0) ∧
          (∀ k : Fin 8, (s.desc k).kind = .state → ¬Supplied s k → rawToSem s 0 = some t.msg[k]) ∧
          (∀ k : Fin 8, (s.desc k).kind = .sync → t.msg[k] = (s.desc k).const)) ∧
        (∀ k, (s.desc k).kind = .state → ¬Supplied s k → rawToSem s 0 = none → t.msgStat = 0x1100))

/-- R159: the pattern round trip: with separable waveforms and a request that passes, ENCODE's echo fails the guard when
the requested entry has a 1 in it, and otherwise yields the first entry in scan order with the same bits below N, which
is the requested one exactly when no earlier entry holds them. -/
def Obligations.EncodedPatternDecodesToTheRequest : Prop :=
  ∀ s : State, GeometryLegal s → s.mode = .patterns → TableLegal s → Separable s → PatternRequestLegal s →
    let e := s.patternAt (4 * s.reqCmd.toNat + s.reqSidx.toNat)
    ∃ t, exec .encode s = .next t ∧ t.status = 0x09FF0002 ∧
      ((∃ i, i < s.guardLength ∧ e.getLsbD i = true) →
        t.msgStat = 0x400 ∧ t.msgCmd = s.msgCmd ∧ t.msgSidx = s.msgSidx) ∧
      ((∀ i, i < s.guardLength → e.getLsbD i = false) →
        t.msgStat = 0xC0000000 ∧
        (∀ c st, c < s.ncmd → st < s.nstate → EntryEquals s e c st →
          (∀ c' st', c' < s.ncmd → st' < s.nstate → ScannedBefore c' st' c st → ¬EntryEquals s e c' st') →
          t.msgCmd.toNat = c ∧ t.msgSidx.toNat = st) ∧
        ((t.msgCmd = s.reqCmd ∧ t.msgSidx = s.reqSidx) ↔
          ∀ c' st', c' < s.ncmd → st' < s.nstate → ScannedBefore c' st' s.reqCmd.toNat s.reqSidx.toNat →
            ¬EntryEquals s e c' st'))

/-! ## The encoder's canvas (43_fieldlayout.md section 5, 44_patterntable.md section 4) -/

/-- R147 (with R146 and R148): for a request that passes, a position of the field canvas is 1 exactly when some enabled
field's value has a 1 there: positions outside every enabled window, and those no value sets, are 0, and where windows
overlap the canvas holds the OR. Bit `i` of a value lies at START + i with FIELD_ORDER = 0 and at END − i with
FIELD_ORDER = 1. -/
def Obligations.FieldCanvasHoldsThePlacedValues : Prop :=
  ∀ s : State, GeometryLegal s → s.mode = .fields → LayoutLegal s → RequestLegal s →
    (∀ j, (encodeCanvas s).getLsbD j = true ↔
      ∃ (k : Fin 8) (v : Word), ValueToEncode s k v ∧ (s.desc k).start ≤ j ∧ j ≤ (s.desc k).stop ∧
        v.getLsbD (if s.ctrl.getLsbD 1 then (s.desc k).stop - j else j - (s.desc k).start) = true) ∧
    ∀ j, (∀ k, (s.desc k).kind ≠ .off → j < (s.desc k).start ∨ (s.desc k).stop < j) →
      (encodeCanvas s).getLsbD j = false

/-- R158: for a request that passes, the pattern canvas holds the requested entry's bits below `N` and 0 above. -/
def Obligations.PatternCanvasHoldsTheRequestedEntry : Prop :=
  ∀ s : State, GeometryLegal s → s.mode = .patterns → TableLegal s → PatternRequestLegal s →
    (∀ j, j < bodyBits s →
      (encodeCanvas s).getLsbD j = (s.patternAt (4 * s.reqCmd.toNat + s.reqSidx.toNat)).getLsbD j) ∧
    ∀ j, bodyBits s ≤ j → (encodeCanvas s).getLsbD j = false
end

