-- ==== Sys2Proof/Laws/Bits.lean ====
section
/-! SUPPORT. What the bit-vector operations of Machine/Ops.lean do, bit by bit and word by word. -/

namespace Sys2Proof.Machine

theorem bitSum_lt (f : Nat → Bool) (n : Nat) : bitSum f n < 2 ^ n := by
  induction n with
  | zero => simp [bitSum]
  | succ n ih =>
    have h : (f n).toNat ≤ 1 := Bool.toNat_le _
    have := Nat.mul_le_mul_right (2 ^ n) h
    simp only [bitSum, Nat.pow_succ]
    omega

theorem bitSum_testBit (f : Nat → Bool) (n i : Nat) : (bitSum f n).testBit i = (decide (i < n) && f i) := by
  induction n with
  | zero => simp [bitSum]
  | succ n ih =>
    have hlt := bitSum_lt f n
    rw [bitSum, Nat.add_comm, Nat.mul_comm]
    rcases Nat.lt_trichotomy i n with h | h | h
    · rw [Nat.testBit_two_pow_mul_add _ hlt, if_pos h, ih]
      simp [h, Nat.lt_succ_of_lt h]
    · subst h
      rw [Nat.testBit_two_pow_mul_add _ hlt]
      cases hf : f i <;> simp
    · rw [Nat.testBit_two_pow_mul_add _ hlt, if_neg (by omega)]
      have h1 : i - n = (i - n - 1) + 1 := by omega
      rw [h1]
      cases hf : f n <;> simp [Nat.testBit_succ, show ¬ i < n + 1 by omega]

/-- The spec's sums as `Finset` sums. -/
theorem bitSum_eq_sum (f : Nat → Bool) (n : Nat) :
    bitSum f n = ∑ i ∈ Finset.range n, (f i).toNat * 2 ^ i := by
  induction n with
  | zero => rfl
  | succ n ih => rw [bitSum, Finset.sum_range_succ, ih]

theorem bitSum_congr {f g : Nat → Bool} {n : Nat} (h : ∀ i, i < n → f i = g i) : bitSum f n = bitSum g n := by
  induction n with
  | zero => rfl
  | succ n ih => rw [bitSum, bitSum, ih fun i hi => h i (by omega), h n (by omega)]

@[simp] theorem getLsbD_ofNat_bitSum (w : Nat) (f : Nat → Bool) (n i : Nat) :
    (BitVec.ofNat w (bitSum f n)).getLsbD i = (decide (i < w) && (decide (i < n) && f i)) := by
  rw [BitVec.getLsbD_ofNat, bitSum_testBit]

@[simp] theorem getLsbD_vectorOf (f : Nat → Bool) (i : Nat) :
    (vectorOf f).getLsbD i = (decide (i < 256) && f i) := by
  rw [vectorOf, getLsbD_ofNat_bitSum]
  cases decide (i < 256) <;> rfl

theorem getLsbD_setBit (v : BitVec 256) (i j : Nat) :
    (setBit v i).getLsbD j = (v.getLsbD j || (decide (j < 256) && decide (i = j))) := by
  have h1 : (1#256).getLsbD (j - i) = decide (j - i = 0) := by
    rw [BitVec.getLsbD_one]; simp
  simp only [setBit, BitVec.getLsbD_or, BitVec.getLsbD_shiftLeft, h1]
  congr 1
  by_cases h : j < 256 <;> by_cases h2 : i = j
  · simp [h, h2]
  · by_cases h3 : j < i
    · simp [h, h2, h3]
    · have : j - i ≠ 0 := by omega
      simp [h, h2, this]
  · simp [h]
  · simp [h]

theorem getLsbD_wordOf (v : BitVec 256) (w i : Nat) :
    (wordOf v w).getLsbD i = (decide (i < 32) && v.getLsbD (32 * w + i)) := by
  simp [wordOf]

theorem getLsbD_setWord (v : BitVec 256) (w : Nat) (x : Word) (j : Nat) :
    (setWord v w x).getLsbD j =
      if 32 * w ≤ j ∧ j < 32 * w + 32 ∧ j < 256 then x.getLsbD (j - 32 * w) else v.getLsbD j := by
  have hones : ∀ n, (0xFFFFFFFF#32).getLsbD n = decide (n < 32) := by
    intro n
    rw [show (0xFFFFFFFF#32) = BitVec.allOnes 32 by decide, BitVec.getLsbD_allOnes]
  simp only [setWord, BitVec.getLsbD_or, BitVec.getLsbD_and, BitVec.getLsbD_not, BitVec.getLsbD_shiftLeft,
    BitVec.getLsbD_setWidth, hones]
  by_cases h : j < 256
  · by_cases h1 : j < 32 * w
    · simp [h, h1, show ¬ 32 * w ≤ j by omega]
    · by_cases h2 : j < 32 * w + 32
      · simp [h, h1, h2, show 32 * w ≤ j by omega, show j - 32 * w < 256 by omega, show j - 32 * w < 32 by omega]
      · have h3 : x.getLsbD (j - 32 * w) = false := BitVec.getLsbD_of_ge _ _ (by omega)
        simp [h, h1, h2, h3, show ¬ j - 32 * w < 32 by omega]
  · have h3 : v.getLsbD j = false := BitVec.getLsbD_of_ge _ _ (by omega)
    simp [h, h3]

/-- A word reads back what was written to it, and every other word reads as before (R65). -/
theorem wordOf_setWord (v : BitVec 256) (w w' : Fin 8) (x : Word) :
    wordOf (setWord v w x) w' = if w' = w then x else wordOf v w' := by
  apply BitVec.eq_of_getLsbD_eq
  intro i hi
  rw [getLsbD_wordOf, getLsbD_setWord]
  have := w.isLt
  have := w'.isLt
  by_cases h : w' = w
  · subst h
    simp [hi, show 32 * w'.val + i < 256 by omega]
  · have hne : w'.val ≠ w.val := fun e => h (Fin.ext e)
    rw [if_neg h, getLsbD_wordOf, if_neg (by omega)]

theorem bitsOf_lt (w : Word) (lo len : Nat) : bitsOf w lo len < 2 ^ len := (w.extractLsb' lo len).isLt

/-- A pulse written within PULSE reads back; every other pulse reads as before. -/
theorem getElem?_writePulse (v : Vector Word 512) (p q : Nat) (d : Word) :
    (writePulse v p d)[q]? = if p = q then (if q < 512 then some d else none) else v[q]? := by
  unfold writePulse
  rw [Vector.getElem?_setIfInBounds]
  by_cases h : p = q
  · subst h; simp
  · simp [h]

end Sys2Proof.Machine
end

