-- ==== Sys2Proof/Laws/BitCodec.lean ====
section
/-! SUPPORT. The Bit-Order Codec: the length of a value, a window's bits, and the bits a placement sets. -/

namespace Sys2Proof.Machine

theorem minLen_pos (v : Word) : 1 ≤ minLen v := by
  unfold minLen; split <;> omega

theorem lt_two_pow_minLen (v : Word) : v.toNat < 2 ^ minLen v := by
  unfold minLen
  split
  · next h => simp [h]
  · exact Nat.lt_log2_self

/-- `v` has a 1 at its highest position, unless it is 0 (R101). -/
theorem two_pow_le_of_ne_zero {v : Word} (h : v ≠ 0) : 2 ^ (minLen v - 1) ≤ v.toNat := by
  have hv : v.toNat ≠ 0 := fun e => h (BitVec.eq_of_toNat_eq (by simpa using e))
  simp only [minLen, if_neg h, Nat.add_sub_cancel]
  exact Nat.log2_self_le hv

theorem minLen_le (v : Word) : minLen v ≤ 32 := by
  by_cases h : v = 0
  · simp [minLen, h]
  · have h1 := two_pow_le_of_ne_zero h
    have h2 : 2 ^ (minLen v - 1) < 2 ^ 32 := Nat.lt_of_le_of_lt h1 v.isLt
    have := (Nat.pow_lt_pow_iff_right (by decide : 1 < 2)).1 h2
    omega

theorem getLsbD_of_minLen_le {v : Word} {i : Nat} (h : minLen v ≤ i) : v.getLsbD i = false :=
  Nat.testBit_lt_two_pow (Nat.lt_of_lt_of_le (lt_two_pow_minLen v) (Nat.pow_le_pow_right (by decide) h))

/-- R100: the bits of a window's value. -/
theorem getLsbD_b2v (order : BitOrder) (vec : BitVec 256) (first last i : Nat) :
    (b2v order vec first last).getLsbD i =
      (decide (i < 32) && (decide (i < last - first + 1) &&
        match order with
        | .lsbAtStart => vec.getLsbD (first + i)
        | .lsbAtEnd => vec.getLsbD (last - i))) := by
  cases order <;> simp [b2v]

/-- A fold that sets a bit for each chosen index sets exactly those bits (R104, R106). -/
theorem getLsbD_foldl_setBit (p : Nat → Bool) (pos : Nat → Nat) (c : BitVec 256) (n j : Nat) :
    ((List.range n).foldl (fun c i => if p i then setBit c (pos i) else c) c).getLsbD j =
      (c.getLsbD j || (decide (j < 256) && (List.range n).any fun i => p i && decide (pos i = j))) := by
  induction n with
  | zero => simp
  | succ n ih =>
    rw [List.range_succ, List.foldl_append, List.any_append, List.foldl_cons, List.foldl_nil]
    by_cases h : p n = true
    · rw [if_pos h, getLsbD_setBit, ih]
      simp only [List.any_cons, List.any_nil, Bool.or_false, h, Bool.true_and]
      cases c.getLsbD j <;> cases decide (j < 256) <;> simp
    · rw [if_neg h, ih]
      simp [h]

/-- R104: a placement keeps every 1 of the canvas and adds a 1 exactly where a 1 of the sequence falls. -/
theorem getLsbD_place (order : BitOrder) (v : Word) (first last : Nat) (canvas : BitVec 256) (j : Nat) :
    (place order v first last canvas).getLsbD j =
      (canvas.getLsbD j || (decide (j < 256) && (List.range (minLen v)).any fun i =>
        seqBit order v i && decide (placePosition order v first last i = j))) :=
  getLsbD_foldl_setBit _ _ _ _ _

/-- R105: the bits a placement sets in a window the value fits. -/
theorem getLsbD_place_window (order : BitOrder) {v : Word} {first last : Nat} (canvas : BitVec 256) (j : Nat)
    (hw : first ≤ last) (hl : last < 256) (hv : minLen v ≤ last - first + 1) :
    (place order v first last canvas).getLsbD j =
      (canvas.getLsbD j || (decide (first ≤ j ∧ j ≤ last) &&
        match order with
        | .lsbAtStart => v.getLsbD (j - first)
        | .lsbAtEnd => v.getLsbD (last - j))) := by
  have hpos := minLen_pos v
  rw [getLsbD_place]
  congr 1
  cases order with
  | lsbAtStart =>
    rw [Bool.eq_iff_iff]
    simp only [Bool.and_eq_true, decide_eq_true_eq, List.any_eq_true, List.mem_range, seqBit, placePosition]
    constructor
    · rintro ⟨_, i, hi, hb, hj⟩
      have hj := of_decide_eq_true hj
      refine ⟨⟨by omega, by omega⟩, ?_⟩
      rwa [show j - first = i by omega]
    · rintro ⟨⟨h1, h2⟩, hb⟩
      have : ¬ minLen v ≤ j - first := fun h => by simp [getLsbD_of_minLen_le h] at hb
      exact ⟨by omega, j - first, by omega, hb, decide_eq_true (by omega)⟩
  | lsbAtEnd =>
    rw [Bool.eq_iff_iff]
    simp only [Bool.and_eq_true, decide_eq_true_eq, List.any_eq_true, List.mem_range, seqBit, placePosition]
    constructor
    · rintro ⟨_, i, hi, hb, hj⟩
      have hj := of_decide_eq_true hj
      refine ⟨⟨by omega, by omega⟩, ?_⟩
      rwa [show last - j = minLen v - 1 - i by omega]
    · rintro ⟨⟨h1, h2⟩, hb⟩
      have h3 : ¬ minLen v ≤ last - j := fun h => by simp [getLsbD_of_minLen_le h] at hb
      refine ⟨by omega, minLen v - 1 - (last - j), by omega, ?_, decide_eq_true (by omega)⟩
      rwa [show minLen v - 1 - (minLen v - 1 - (last - j)) = last - j by omega]

end Sys2Proof.Machine
end

