-- ==== Sys2Proof/Laws/Matcher.lean ====
section
/-! SUPPORT. The Tolerance Matcher: `matchesRef` decides `Accepts`, and the bounds lie around the reference. -/

namespace Sys2Proof.Machine

theorem lowerBound_le (num : Nat) (ref : Word) : lowerBound num ref ≤ ref.toNat := by
  unfold lowerBound
  split
  · have : ref.toNat * (Config.epsDen - num) ≤ ref.toNat * Config.epsDen := Nat.mul_le_mul_left _ (by omega)
    have := Nat.div_le_div_right (c := Config.epsDen) this
    rwa [Nat.mul_div_cancel _ (by decide)] at this
  · exact Nat.zero_le _

theorem le_upperBound (num : Nat) (ref : Word) : ref.toNat ≤ upperBound num ref := by
  have : ref.toNat * Config.epsDen ≤ ref.toNat * (Config.epsDen + num) := Nat.mul_le_mul_left _ (by omega)
  have := Nat.div_le_div_right (c := Config.epsDen) this
  rwa [Nat.mul_div_cancel _ (by decide)] at this

theorem matchesRef_iff (num : Nat) (obs ref : Word) : matchesRef num obs ref = true ↔ Accepts num obs ref := by
  rw [matchesRef, Bool.and_eq_true, decide_eq_true_eq, decide_eq_true_eq, lowerBound, upperBound]
  by_cases h : num ≤ 10000 <;> simp [h]

theorem accepts_iff (s : State) (obs ref : Word) : s.accepts obs ref = true ↔ Accepts s.eps obs ref :=
  matchesRef_iff _ _ _

/-- A duration matches itself (R94, item 1). -/
theorem matchesRef_self (num : Nat) (ref : Word) : matchesRef num ref ref = true := by
  simp [matchesRef, lowerBound_le, le_upperBound]

@[simp] theorem accepts_self (s : State) (ref : Word) : s.accepts ref ref = true := matchesRef_self _ _

theorem toNat_sat32 (v : Nat) : (sat32 v).toNat = min v (2 ^ 32 - 1) := by
  rw [sat32, BitVec.toNat_ofNat]
  exact Nat.mod_eq_of_lt (by omega)

end Sys2Proof.Machine
end

