-- ==== Sys2Proof/Laws/Framer.lean ====
section
/-! SUPPORT. The Framer: when each check passes, what `demod_body()` leaves, and what `synth()` writes. -/

namespace Sys2Proof.Machine

/-- R114: `cfg_global()` passes exactly when the geometry is legal. -/
theorem cfgGlobal_eq_none_iff (s : State) : cfgGlobal s = none ↔ GeometryLegal s := by
  unfold cfgGlobal GeometryLegal bodyBits
  constructor
  · intro h
    simp only [Config.trainMax] at h
    repeat' split at h
    all_goals first | (simp at h; done) | skip
    next h1 h2 h3 h4 h5 h6 => exact ⟨not_not.1 h1, not_not.1 h2, by omega, by omega, by omega, by omega⟩
  · rintro ⟨h1, h2, h3, h4, h5, h6⟩
    simp only [Config.trainMax]
    rw [if_neg (not_not.2 h1), if_neg (not_not.2 h2), if_neg (by omega), if_neg (by omega), if_neg (by omega),
      if_neg (by omega)]

/-- R114: every failure of `cfg_global()` is ConfigError naming no field. -/
theorem cfgGlobal_eq_some {s : State} {f : Failure} (h : cfgGlobal s = some f) : f = geometryError := by
  unfold cfgGlobal at h
  simp only at h
  repeat' split at h
  all_goals simp_all

theorem cfgGlobal_of_illegal {s : State} (h : ¬GeometryLegal s) : cfgGlobal s = some geometryError := by
  cases hc : cfgGlobal s with
  | none => exact absurd ((cfgGlobal_eq_none_iff s).1 hc) h
  | some f => rw [cfgGlobal_eq_some hc]

theorem bvLen_of_legal {s : State} (h : GeometryLegal s) : s.bvLen = bodyBits s := by
  rw [State.bvLen, (cfgGlobal_eq_none_iff s).2 h]

theorem bvLen_of_illegal {s : State} (h : ¬GeometryLegal s) : s.bvLen = 0 := by
  rw [State.bvLen, cfgGlobal_of_illegal h]

/-- R113: the three parts of a legal train cover it. -/
theorem trainLength_eq {s : State} (h : GeometryLegal s) :
    s.trainLength = s.headerLength + 2 * bodyBits s + s.footerLength := by
  obtain ⟨_, _, _, _, h5, _⟩ := h
  unfold bodyBits; omega

theorem bodyBits_le {s : State} (h : GeometryLegal s) : bodyBits s ≤ 255 := by
  obtain ⟨_, _, _, _, _, _⟩ := h
  unfold bodyBits; omega

theorem bvLen_le (s : State) : s.bvLen ≤ 255 := by
  by_cases h : GeometryLegal s
  · rw [bvLen_of_legal h]; exact bodyBits_le h
  · rw [bvLen_of_illegal h]; omega

theorem cfgField_eq_none_iff (n : Nat) (d : FieldDesc) (k : Fin 8) : cfgField n d k = none ↔ WindowLegal n d := by
  unfold cfgField WindowLegal
  by_cases h : d.kind = .off
  · simp [h]
  · rw [if_neg h]
    constructor
    · intro hc _
      repeat' split at hc
      all_goals first | (simp at hc; done) | skip
      next h1 h2 h3 h4 => exact ⟨by omega, by omega, by simpa using h3, fun hs => by
        by_contra hl; exact h4 ⟨hs, by omega⟩⟩
    · intro hw
      obtain ⟨h1, h2, h3, h4⟩ := hw h
      rw [if_neg (by omega), if_neg (by omega), if_neg (by simpa using h3), if_neg]
      rintro ⟨hs, hl⟩
      have := h4 hs
      omega

theorem cfgField_eq_some {n : Nat} {d : FieldDesc} {k : Fin 8} {f : Failure} (h : cfgField n d k = some f) :
    f = .at .configError k := by
  unfold cfgField at h
  repeat' split at h
  all_goals simp_all

/-- R115: `cfg_mode()` passes exactly when the selected strategy's configuration is legal. -/
theorem cfgMode_eq_none_iff {s : State} (hg : GeometryLegal s) : cfgMode s = none ↔ ModeLegal s := by
  unfold cfgMode ModeLegal
  cases hm : s.mode with
  | fields =>
    simp only [List.findSome?_eq_none_iff, bvLen_of_legal hg, cfgField_eq_none_iff, LayoutLegal]
    simp
  | patterns =>
    simp only [TableLegal, Config.ptC, Config.ptS]
    by_cases h1 : s.ncmd > 8
    · simp [h1]
    · by_cases h2 : s.nstate > 4
      · simp [h1, h2]
      · simp [h1, h2]; omega

/-- R115, R116: both checks pass. -/
theorem cfgAll_eq_none_iff (s : State) : cfgAll s = none ↔ GeometryLegal s ∧ ModeLegal s := by
  unfold cfgAll
  by_cases hg : GeometryLegal s
  · rw [(cfgGlobal_eq_none_iff s).2 hg]
    simp only [cfgMode_eq_none_iff hg]
    exact ⟨fun h => ⟨hg, h⟩, fun h => h.2⟩
  · rw [cfgGlobal_of_illegal hg]
    simp only [reduceCtorEq, false_iff]
    exact fun h => hg h.1

theorem headerOk_iff (s : State) : headerOk s = true ↔ HeaderInWindow s := by
  simp only [headerOk, Bool.and_eq_true, Bool.or_eq_true, decide_eq_true_eq, accepts_iff, HeaderInWindow]
  refine and_congr_right fun _ => ?_
  tauto

theorem footerOk_iff {s : State} (h : GeometryLegal s) : footerOk s = true ↔ FooterInWindow s := by
  simp only [footerOk, Bool.and_eq_true, Bool.or_eq_true, decide_eq_true_eq, accepts_iff, FooterInWindow]
  refine and_congr_right fun _ => ?_
  obtain ⟨_, _, _, h4, _, _⟩ := h
  by_cases h2 : s.footerLength = 2
  · rw [show s.trainLength - s.footerLength + 1 = s.trainLength - 1 by omega]
    tauto
  · tauto

theorem clsBit_iff (s : State) (i : Nat) : clsBit s i = true ↔ PairHigh s i := by
  simp only [clsBit, pairHigh, Bool.and_eq_true, accepts_iff]
  exact Iff.rfl

theorem pairLow_iff (s : State) (i : Nat) : pairLow s i = true ↔ PairMatches s i s.lowD0 s.lowD1 := by
  simp only [pairLow, Bool.and_eq_true, accepts_iff]
  exact Iff.rfl

theorem clsAmb_iff (s : State) (i : Nat) : clsAmb s i = true ↔ PairAmbiguous s i := by
  rw [clsAmb, Bool.and_eq_true, Bool.not_eq_true', Bool.not_eq_true', ← Bool.not_eq_true, ← Bool.not_eq_true]
  exact and_congr (not_congr (clsBit_iff s i)) (not_congr (pairLow_iff s i))

theorem guardOk_iff (s : State) : guardOk s = true ↔ GuardClear s := by
  simp only [guardOk, List.all_eq_true, List.mem_range, Bool.not_eq_true', ← Bool.not_eq_true, clsBit_iff]

theorem lengthOk_iff (s : State) : lengthOk s = true ↔ s.count = s.trainLength := decide_eq_true_iff

/-- R126: the frame checks all pass exactly when the train is framed. -/
theorem frameCheck_eq_none_iff {s : State} (h : GeometryLegal s) : frameCheck s = none ↔ TrainFramed s := by
  rw [TrainFramed, ← lengthOk_iff, ← headerOk_iff, ← footerOk_iff h, ← guardOk_iff, frameCheck]
  cases lengthOk s <;> cases headerOk s <;> cases footerOk s <;> cases guardOk s <;> simp

/-- R126: a frame check fails with one of the four frame errors, naming no field. -/
theorem frameCheck_eq_some {s : State} {f : Failure} (h : frameCheck s = some f) :
    f = .plain .lengthMismatch ∨ f = .plain .headerMismatch ∨ f = .plain .footerMismatch ∨
      f = .plain .startSequenceMismatch := by
  unfold frameCheck at h
  repeat' split at h
  all_goals simp_all

/-- R127: `amb` says that some body pair is ambiguous. -/
theorem demodAmb_iff {s : State} (h : GeometryLegal s) : demodAmb s = true ↔ SomeAmbiguous s := by
  simp only [demodAmb, firstAmbiguous, List.find?_isSome, List.mem_range, bvLen_of_legal h, clsAmb_iff]

/-- R127: AMB_POS is the lowest ambiguous index. -/
theorem firstAmbiguous_eq_some_iff {s : State} (h : GeometryLegal s) (i : Nat) :
    firstAmbiguous s = some i ↔
      i < bodyBits s ∧ PairAmbiguous s i ∧ ∀ j, j < i → ¬PairAmbiguous s j := by
  rw [firstAmbiguous, bvLen_of_legal h, List.find?_range_eq_some]
  simp only [clsAmb_iff, List.mem_range, Bool.not_eq_true', ← Bool.not_eq_true]
  tauto

/-- R127: the bits `demod_body()` writes. -/
theorem getLsbD_demodVector (s : State) (i : Nat) :
    (demodVector s).getLsbD i = (decide (i < s.bvLen) && clsBit s i) := by
  rw [demodVector, getLsbD_vectorOf]
  have := bvLen_le s
  by_cases h : i < s.bvLen
  · simp [h, show i < 256 by omega]
  · simp [h]

/-- A write of one pulse, seen through the reads of the others. -/
theorem getElem?_synthPair (s : State) (canvas : BitVec 256) (v : Vector Word 512) (i p : Nat) (hp : p < 512) :
    (synthPair s canvas v i)[p]? =
      if p = s.pairIndex i then some (if canvas.getLsbD i then s.highD0 else s.lowD0)
      else if p = s.pairIndex i + 1 then some (if canvas.getLsbD i then s.highD1 else s.lowD1)
      else v[p]? := by
  unfold synthPair
  split_ifs <;> simp only [getElem?_writePulse, hp, if_true] <;> split_ifs <;> first | rfl | (exfalso; omega)

/-- R128: the body loop, read at one pulse index. -/
theorem getElem?_synthFold (s : State) (canvas : BitVec 256) (v : Vector Word 512) (n p : Nat) (hp : p < 512) :
    ((List.range n).foldl (synthPair s canvas) v)[p]? =
      if s.headerLength ≤ p ∧ p < s.headerLength + 2 * n then
        some (if canvas.getLsbD ((p - s.headerLength) / 2) then
          (if (p - s.headerLength) % 2 = 0 then s.highD0 else s.highD1)
        else (if (p - s.headerLength) % 2 = 0 then s.lowD0 else s.lowD1))
      else v[p]? := by
  induction n with
  | zero => rw [if_neg (by omega)]; rfl
  | succ n ih =>
    rw [List.range_succ, List.foldl_append, List.foldl_cons, List.foldl_nil, getElem?_synthPair _ _ _ _ _ hp, ih]
    unfold State.pairIndex
    by_cases h1 : p = s.headerLength + 2 * n
    · rw [if_pos h1, if_pos (show s.headerLength ≤ p ∧ p < s.headerLength + 2 * (n + 1) by omega),
        show (p - s.headerLength) / 2 = n by omega,
        if_pos (by omega : (p - s.headerLength) % 2 = 0), if_pos (by omega : (p - s.headerLength) % 2 = 0)]
    · rw [if_neg h1]
      by_cases h2 : p = s.headerLength + 2 * n + 1
      · rw [if_pos h2, if_pos (show s.headerLength ≤ p ∧ p < s.headerLength + 2 * (n + 1) by omega),
          show (p - s.headerLength) / 2 = n by omega,
          if_neg (by omega : ¬(p - s.headerLength) % 2 = 0), if_neg (by omega : ¬(p - s.headerLength) % 2 = 0)]
      · rw [if_neg h2]
        by_cases h3 : s.headerLength ≤ p ∧ p < s.headerLength + 2 * n
        · rw [if_pos h3, if_pos (show s.headerLength ≤ p ∧ p < s.headerLength + 2 * (n + 1) by omega)]
        · rw [if_neg h3, if_neg (show ¬(s.headerLength ≤ p ∧ p < s.headerLength + 2 * (n + 1)) by omega)]

/-- R128: the header writes, read at one pulse index. -/
theorem getElem?_synthHeader (s : State) (v : Vector Word 512) (p : Nat) (hp : p < 512) :
    (synthHeader s v)[p]? =
      if p = 0 then some s.hdrD0 else if p = 1 ∧ s.headerLength = 2 then some s.hdrD1 else v[p]? := by
  unfold synthHeader
  split_ifs <;> simp only [getElem?_writePulse, hp, if_true] <;> split_ifs <;> first | rfl | (exfalso; omega)

/-- R128: the footer writes, read at one pulse index. -/
theorem getElem?_synthFooter {s : State} (h : GeometryLegal s) (v : Vector Word 512) (p : Nat) (hp : p < 512) :
    (synthFooter s v)[p]? =
      if p = s.trainLength - s.footerLength then some s.ftrD0
      else if p = s.trainLength - 1 ∧ s.footerLength = 2 then some s.ftrD1 else v[p]? := by
  obtain ⟨_, hf, _, h4, _, _⟩ := h
  unfold synthFooter
  split_ifs <;> simp only [getElem?_writePulse, hp, if_true] <;> split_ifs <;> first | rfl | (exfalso; omega)

/-- R113, R128: the pulse the synthesised train holds at index `p`. -/
def trainPulse (s : State) (canvas : BitVec 256) (p : Nat) : Word :=
  if p < s.headerLength then (if p = 0 then s.hdrD0 else s.hdrD1)
  else if p < s.headerLength + 2 * bodyBits s then
    (if canvas.getLsbD ((p - s.headerLength) / 2) then
      (if (p - s.headerLength) % 2 = 0 then s.highD0 else s.highD1)
    else (if (p - s.headerLength) % 2 = 0 then s.lowD0 else s.lowD1))
  else if p < s.trainLength then
    (if p = s.trainLength - s.footerLength then s.ftrD0 else s.ftrD1)
  else s.pulseAt p

/-- R128, R130: everything `synth()` does to PULSE. -/
theorem pulseAt_synth {s : State} (h : GeometryLegal s) (canvas : BitVec 256) (p : Nat) :
    (synth s canvas).pulseAt p = trainPulse s canvas p := by
  have ht := trainLength_eq h
  have hb := bvLen_of_legal h
  obtain ⟨hh, hf, h3, h4, _, _⟩ := id h
  by_cases hp : p < 512
  · simp only [State.pulseAt, synth, getElem?_synthFooter h _ p hp, getElem?_synthHeader s _ p hp, synthBody,
      getElem?_synthFold s canvas _ _ p hp, hb, trainPulse]
    by_cases h1 : p < s.headerLength
    · rw [if_neg (by omega), if_neg (by omega), if_pos h1]
      by_cases h0 : p = 0
      · rw [if_pos h0, if_pos h0]; rfl
      · rw [if_neg h0, if_neg h0, if_pos (by omega)]; rfl
    · rw [if_neg h1]
      by_cases h2 : p < s.headerLength + 2 * bodyBits s
      · rw [if_neg (by omega), if_neg (by omega), if_neg (by omega), if_neg (by omega), if_pos (by omega), if_pos h2]
        rfl
      · rw [if_neg h2]
        by_cases h5 : p < s.trainLength
        · rw [if_pos h5]
          by_cases h6 : p = s.trainLength - s.footerLength
          · rw [if_pos h6, if_pos h6]; rfl
          · rw [if_neg h6, if_neg h6, if_pos (by omega)]; rfl
        · rw [if_neg h5, if_neg (by omega), if_neg (by omega), if_neg (by omega), if_neg (by omega), if_neg (by omega)]
  · have : ∀ v : Vector Word 512, v[p]? = none := fun v => Vector.getElem?_eq_none (by omega)
    unfold trainPulse
    rw [if_neg (by omega), if_neg (by omega), if_neg (by omega)]
    simp [State.pulseAt, this]

/-- R128: `synth()` leaves the train's length in PULSE_COUNT. -/
theorem count_synth (s : State) (canvas : BitVec 256) : (synth s canvas).count = s.trainLength := by
  have h : s.trainLength < 1024 := bitsOf_lt _ _ _
  simp only [State.count, synth, bitsOf]
  rw [BitVec.extractLsb'_toNat, BitVec.toNat_ofNat]
  omega

end Sys2Proof.Machine
end

