-- ==== Sys2Proof/Laws/FieldLayout.lean ====
section
/-! SUPPORT. The Bitfield Layout Codec: when a field decodes and to what, when a request passes, and which canvas bits
`fencode()` sets. -/

namespace Sys2Proof.Machine

/-- R137: a field fails to decode exactly when its sync or state test fails. -/
theorem fieldFailure_eq_none_iff (s : State) (k : Fin 8) : fieldFailure s k = none ↔ FieldDecodes s k := by
  unfold fieldFailure decodeField FieldDecodes
  cases hk : (s.desc k).kind with
  | off => simp
  | value => simp
  | sync =>
    by_cases h : fieldRaw s k = (s.desc k).const <;> simp [h]
  | state =>
    cases h : rawToSem s (fieldRaw s k) <;> simp

/-- R137: the failure of a field that does not decode. -/
theorem fieldFailure_of_not_decodes {s : State} {k : Fin 8} (h : ¬FieldDecodes s k) :
    ∃ c : ErrCode, c.byte = fieldErrorCode s k ∧ fieldFailure s k = some (.at c k) := by
  unfold FieldDecodes at h
  unfold fieldFailure decodeField fieldErrorCode
  cases hk : (s.desc k).kind with
  | off => simp [hk] at h
  | value => simp [hk] at h
  | sync =>
    have h1 : fieldRaw s k ≠ (s.desc k).const := by simpa [hk] using h
    exact ⟨.syncMismatch, by simp [ErrCode.byte], by simp [h1]⟩
  | state =>
    have h1 : rawToSem s (fieldRaw s k) = none := by simpa [hk] using h
    exact ⟨.invalidState, by simp [ErrCode.byte], by simp [h1]⟩

/-- R137: the value of a field that decodes. -/
theorem fieldValue_of_decodes {s : State} {k : Fin 8} (h : FieldDecodes s k) : fieldValue s k = decodedValue s k := by
  unfold FieldDecodes at h
  unfold fieldValue decodeField decodedValue
  cases hk : (s.desc k).kind with
  | off => rfl
  | value => rfl
  | sync =>
    have h1 : fieldRaw s k = (s.desc k).const := h.1 hk
    simp [h1]
  | state =>
    cases hr : rawToSem s (fieldRaw s k) with
    | none => exact absurd hr (h.2 hk)
    | some c => rfl

/-- R138: bit `k` of PRESENT marks a message field. -/
theorem getLsbD_presentMask (s : State) (k : Fin 8) : (presentMask s).getLsbD k = (s.desc k).isMessage := by
  have hk := k.isLt
  rw [presentMask, getLsbD_ofNat_bitSum]
  simp [State.desc]

/-- What a successful field decode writes (R138), and nothing else. -/
theorem fieldDecode_eq_ok {s t : State} (h : fieldDecode s = .ok t) :
    (∀ k, FieldDecodes s k) ∧
      t = { s with msg := Vector.ofFn (fieldValue s), msgStat := fieldMessageStat (presentMask s) } := by
  unfold fieldDecode at h
  split at h
  · cases h
  · next hn =>
    refine ⟨fun k => ?_, by injection h with h; exact h.symm⟩
    rw [← fieldFailure_eq_none_iff]
    exact List.findSome?_eq_none_iff.1 hn k (List.mem_finRange k)

theorem fieldDecode_of_decodes {s : State} (h : ∀ k, FieldDecodes s k) :
    fieldDecode s =
      .ok { s with msg := Vector.ofFn (fieldValue s), msgStat := fieldMessageStat (presentMask s) } := by
  unfold fieldDecode
  rw [List.findSome?_eq_none_iff.2 fun k _ => (fieldFailure_eq_none_iff s k).2 (h k)]

/-- The first of the eight fields that fails a per-field check is the one reported. -/
theorem findSome?_finRange_of_first {n : Nat} {f : Fin n → Option Failure} {k : Fin n} {e : Failure}
    (hk : f k = some e) (hlt : ∀ j, j < k → f j = none) : (List.finRange n).findSome? f = some e := by
  rw [List.findSome?_eq_some_iff]
  refine ⟨(List.finRange n).take k, k, (List.finRange n).drop (k + 1), ?_, hk, ?_⟩
  · have h : k.val < (List.finRange n).length := by simp
    have := List.take_append_drop k.val (List.finRange n)
    rw [List.drop_eq_getElem_cons h, List.getElem_finRange] at this
    simpa using this.symm
  · intro j hj
    obtain ⟨i, hi, rfl⟩ := List.mem_iff_getElem.1 hj
    simp only [List.length_take, List.length_finRange] at hi
    apply hlt
    simp only [List.getElem_take, List.getElem_finRange, Fin.lt_def]
    simp
    omega

theorem missingField_eq_none_iff (s : State) (k : Fin 8) : missingField s k = none ↔ ¬Missing s k := by
  unfold missingField Missing State.present
  cases (s.desc k).required <;> cases (s.desc k).isMessage <;> cases s.reqPresent.getLsbD k <;> simp

theorem missingField_of_missing {s : State} {k : Fin 8} (h : Missing s k) :
    missingField s k = some (.at .missingField k) := by
  unfold missingField State.present
  obtain ⟨h1, h2, h3⟩ := h
  rw [h1, h2, h3]; rfl

theorem present_iff (s : State) (k : Fin 8) : s.present k = true ↔ Supplied s k := by
  simp [State.present, Supplied]

theorem outOfRangeField_eq_none_iff (s : State) (k : Fin 8) : outOfRangeField s k = none ↔ ¬ValueOutOfRange s k := by
  unfold outOfRangeField ValueOutOfRange
  rw [← present_iff]
  by_cases hp : s.present k = true
  · rw [if_neg (not_not.2 hp)]
    cases hk : (s.desc k).kind with
    | off => simp
    | sync => simp
    | value =>
      simp only [BitVec.lt_def, gt_iff_lt, hp, true_and, reduceCtorEq, false_and, or_false]
      by_cases h1 : (s.request k).toNat < (s.desc k).min.toNat ∨ (s.desc k).max.toNat < (s.request k).toNat
      · rw [if_pos h1]; simp only [reduceCtorEq, false_iff]; tauto
      · rw [if_neg h1]
        by_cases h2 : (s.desc k).width < minLen (s.request k)
        · rw [if_pos h2]; simp only [reduceCtorEq, false_iff]; tauto
        · rw [if_neg h2]; simp only [true_iff]; tauto
    | state =>
      simp only [hp, true_and, reduceCtorEq, false_and, false_or]
      cases hr : semToRaw s (s.request k) with
      | none => simp
      | some r =>
        simp only [Option.getD_some, reduceCtorEq, false_or]
        by_cases h2 : (s.desc k).width < minLen r <;> simp [h2]
  · rw [if_pos hp]; simp [hp]

theorem outOfRangeField_eq_some {s : State} {k : Fin 8} {f : Failure} (h : outOfRangeField s k = some f) :
    f = .at .outOfRange k := by
  unfold outOfRangeField at h
  repeat' split at h
  all_goals simp_all

theorem conflictFires_iff (s : State) (c : Fin 4) : conflictFires s c = true ↔ Conflicts s c := by
  unfold conflictFires Conflicts
  simp only [Bool.and_eq_true, Bool.or_eq_true, Bool.not_eq_true', decide_eq_true_eq, present_iff]
  cases (s.conflict c).useVal <;> simp <;> tauto

theorem conflictFailure_eq_none_iff (s : State) (c : Fin 4) : conflictFailure s c = none ↔ ¬Conflicts s c := by
  rw [← conflictFires_iff, conflictFailure]
  cases conflictFires s c <;> simp

/-- R141: `fcheck()` passes exactly when no pass finds a failure. -/
theorem fieldCheck_eq_none_iff (s : State) : fieldCheck s = none ↔ RequestLegal s := by
  unfold fieldCheck RequestLegal
  simp only [← missingField_eq_none_iff, ← outOfRangeField_eq_none_iff, ← conflictFailure_eq_none_iff]
  constructor
  · intro h
    split at h
    · cases h
    · next h1 =>
      split at h
      · cases h
      · next h2 =>
      rw [List.findSome?_eq_none_iff] at h h1 h2
      exact ⟨fun k => h1 k (List.mem_finRange k), fun k => h2 k (List.mem_finRange k),
        fun c => h c (List.mem_finRange c)⟩
  · rintro ⟨h1, h2, h3⟩
    rw [List.findSome?_eq_none_iff.2 fun k _ => h1 k]
    have h2' : (List.finRange 8).findSome? (outOfRangeField s) = none :=
      List.findSome?_eq_none_iff.2 fun k _ => h2 k
    simp only [h2']
    exact List.findSome?_eq_none_iff.2 fun c _ => h3 c

/-- R146, R147: the canvas holds the OR of what each field places. -/
theorem getLsbD_foldl_encodeField (s : State) (l : List (Fin 8)) (c : BitVec 256) (j : Nat) :
    (l.foldl (encodeField s) c).getLsbD j = (c.getLsbD j || l.any fun k => (encodeField s 0 k).getLsbD j) := by
  induction l generalizing c with
  | nil => simp
  | cons k l ih =>
    rw [List.foldl_cons, ih, List.any_cons, ← Bool.or_assoc]
    congr 1
    unfold encodeField
    split
    · simp
    · rw [getLsbD_place, getLsbD_place]; simp

theorem getLsbD_fieldCanvas (s : State) (j : Nat) :
    (fieldCanvas s).getLsbD j = (List.finRange 8).any fun k => (encodeField s 0 k).getLsbD j := by
  rw [fieldCanvas, getLsbD_foldl_encodeField]; simp

end Sys2Proof.Machine
end

