-- ==== Sys2Proof/Laws/PatternTable.lean ====
section
/-! SUPPORT. The Pattern-Table Codec: which entry a decode finds, when a request passes, and the canvas of an entry. -/

namespace Sys2Proof.Machine

theorem mem_scanOrder (s : State) (c st : Nat) : (c, st) ∈ scanOrder s ↔ c < s.ncmd ∧ st < s.nstate := by
  simp [scanOrder]

theorem entryMatches_iff {s : State} (h : GeometryLegal s) (c st : Nat) :
    entryMatches s (c, st) = true ↔ EntryEquals s s.bv c st := by
  simp only [entryMatches, List.all_eq_true, List.mem_range, bvLen_of_legal h, entryIndex, beq_iff_eq, EntryEquals]

/-- What a successful pattern decode writes (R154), and nothing else. -/
theorem patternDecode_eq_ok {s t : State} (h : patternDecode s = .ok t) :
    ∃ c st, c < s.ncmd ∧ st < s.nstate ∧ entryMatches s (c, st) = true ∧
      t = { s with msgCmd := BitVec.ofNat 32 c, msgSidx := BitVec.ofNat 32 st, msgStat := patternMessageStat } := by
  unfold patternDecode at h
  split at h
  · cases h
  · next c st hf =>
    injection h with h
    have hm := (mem_scanOrder s c st).1 (List.mem_of_find?_eq_some hf)
    exact ⟨c, st, hm.1, hm.2, List.find?_some hf, h.symm⟩

theorem patternDecode_eq_error {s : State} {f : Failure} (h : patternDecode s = .error f) : f = .plain .noMatch := by
  unfold patternDecode at h
  split at h
  · injection h with h; exact h.symm
  · cases h

/-- R157: `pcheck()` passes exactly when both indices are in the table. -/
theorem patternCheck_eq_none_iff (s : State) : patternCheck s = none ↔ PatternRequestLegal s := by
  unfold patternCheck PatternRequestLegal
  by_cases h1 : s.reqCmd.toNat ≥ s.ncmd
  · simp [h1]
  · by_cases h2 : s.reqSidx.toNat ≥ s.nstate
    · simp [h1, h2]
    · simp [h1, h2]; omega

/-- R158: the canvas holds the entry's bits below BV_LEN and 0 above. -/
theorem getLsbD_patternCanvas (s : State) (i : Nat) :
    (patternCanvas s).getLsbD i =
      (decide (i < s.bvLen) && (s.patternAt (4 * s.reqCmd.toNat + s.reqSidx.toNat)).getLsbD i) := by
  rw [patternCanvas, getLsbD_vectorOf]
  have := bvLen_le s
  by_cases h : i < s.bvLen
  · simp [h, show i < 256 by omega, entryIndex]
  · simp [h]

end Sys2Proof.Machine
end

