-- ==== Sys2Proof/Laws/Commands.lean ====
section
/-! SUPPORT. What each command can do, said once: every way its meaning can end. -/

namespace Sys2Proof.Machine

/-- R164: what a successful message decode writes lies in the message registers. -/
theorem decodeMessage_eq_ok {s t : State} (h : decodeMessage s = .ok t) :
    (s.mode = .fields ∧ fieldDecode s = .ok t) ∨ (s.mode = .patterns ∧ patternDecode s = .ok t) := by
  unfold decodeMessage at h
  split at h
  · next hm => exact .inl ⟨hm, h⟩
  · next hm => exact .inr ⟨hm, h⟩

/-- A message decode writes only the message registers. -/
theorem decodeMessage_frame {s t : State} (h : decodeMessage s = .ok t) :
    t = { s with msg := t.msg, msgStat := t.msgStat, msgCmd := t.msgCmd, msgSidx := t.msgSidx } := by
  rcases decodeMessage_eq_ok h with ⟨_, h⟩ | ⟨_, h⟩
  · obtain ⟨_, rfl⟩ := fieldDecode_eq_ok h; rfl
  · obtain ⟨_, _, _, _, _, rfl⟩ := patternDecode_eq_ok h; rfl

/-- R165, R169: every way the steps of DECODE after its configuration checks can end. -/
theorem decodeTrain_cases (s : State) :
    (∃ f, frameCheck s = some f ∧ decodeTrain s = ⟨s, false, some f⟩) ∨
    (frameCheck s = none ∧ demodAmb s = true ∧ s.ambStrict = true ∧
      decodeTrain s = ⟨demodBody s, true, some (.plain .ambiguousBit)⟩) ∨
    (frameCheck s = none ∧ ¬(demodAmb s = true ∧ s.ambStrict = true) ∧
      ∃ f, decodeMessage (demodBody s) = .error f ∧ decodeTrain s = ⟨demodBody s, demodAmb s, some f⟩) ∨
    (frameCheck s = none ∧ ¬(demodAmb s = true ∧ s.ambStrict = true) ∧
      ∃ t, decodeMessage (demodBody s) = .ok t ∧ decodeTrain s = ⟨t, demodAmb s, none⟩) := by
  unfold decodeTrain
  cases hf : frameCheck s with
  | some f => exact .inl ⟨f, rfl, rfl⟩
  | none =>
    by_cases ha : demodAmb s = true ∧ s.ambStrict = true
    · rw [ha.1, ha.2]
      exact .inr (.inl ⟨rfl, rfl, rfl, rfl⟩)
    · have hb : (demodAmb s && s.ambStrict) = false := by
        rw [Bool.eq_false_iff, ne_eq, Bool.and_eq_true]; exact ha
      simp only [hb, Bool.false_eq_true, if_false]
      cases hm : decodeMessage (demodBody s) with
      | error f => exact .inr (.inr (.inl ⟨trivial, ha, f, rfl, rfl⟩))
      | ok t => exact .inr (.inr (.inr ⟨trivial, ha, t, rfl, rfl⟩))

/-- B2V (R108): a bad window, or the window's value. -/
theorem execB2v_cases (start stop : Nat) (s : State) :
    ((start > stop ∨ stop - start + 1 > 32) ∧ execB2v start stop s = fail 0x02 false (.plain .boundsError) s) ∨
    (start ≤ stop ∧ stop - start + 1 ≤ 32 ∧
      execB2v start stop s = finish 0x02 false { s with result := b2v s.fieldOrder s.bv start stop }) := by
  unfold execB2v
  by_cases h1 : start > stop
  · rw [if_pos h1]; exact .inl ⟨.inl h1, rfl⟩
  · rw [if_neg h1]
    by_cases h2 : stop - start + 1 > 32
    · rw [if_pos h2]; exact .inl ⟨.inr h2, rfl⟩
    · rw [if_neg h2]; exact .inr ⟨by omega, by omega, rfl⟩

/-- VALIDATE (R126): the first check that fails, or success. -/
theorem execValidate_cases (s : State) :
    (¬GeometryLegal s ∧ execValidate s = fail 0x04 false geometryError s) ∨
    (GeometryLegal s ∧ ∃ f, frameCheck s = some f ∧ execValidate s = fail 0x04 false f s) ∨
    (GeometryLegal s ∧ frameCheck s = none ∧ execValidate s = finish 0x04 false s) := by
  unfold execValidate
  by_cases hg : GeometryLegal s
  · rw [(cfgGlobal_eq_none_iff s).2 hg]
    cases hf : frameCheck s with
    | some f => exact .inr (.inl ⟨hg, f, rfl, rfl⟩)
    | none => exact .inr (.inr ⟨hg, rfl, rfl⟩)
  · rw [cfgGlobal_of_illegal hg]
    exact .inl ⟨hg, rfl⟩

/-- DEMOD (R127): a failure before any write, AmbiguousBit after the writes, or success. -/
theorem execDemod_cases (s : State) :
    (¬GeometryLegal s ∧ execDemod s = fail 0x05 false geometryError s) ∨
    (GeometryLegal s ∧ s.count ≠ s.trainLength ∧ execDemod s = fail 0x05 false (.plain .lengthMismatch) s) ∨
    (GeometryLegal s ∧ s.count = s.trainLength ∧ (demodAmb s = true ∧ s.ambStrict = true) ∧
      execDemod s = fail 0x05 true (.plain .ambiguousBit) (demodBody s)) ∨
    (GeometryLegal s ∧ s.count = s.trainLength ∧ ¬(demodAmb s = true ∧ s.ambStrict = true) ∧
      execDemod s = finish 0x05 (demodAmb s) (demodBody s)) := by
  unfold execDemod
  by_cases hg : GeometryLegal s
  · rw [(cfgGlobal_eq_none_iff s).2 hg]
    by_cases hl : lengthOk s = true
    · have hl' := (lengthOk_iff s).1 hl
      simp only [hl, not_true_eq_false, if_false]
      by_cases ha : demodAmb s = true ∧ s.ambStrict = true
      · rw [ha.1, ha.2]
        exact .inr (.inr (.inl ⟨hg, hl', ⟨rfl, rfl⟩, rfl⟩))
      · have hb : (demodAmb s && s.ambStrict) = false := by
          rw [Bool.eq_false_iff, ne_eq, Bool.and_eq_true]; exact ha
        simp only [hb, Bool.false_eq_true, if_false]
        exact .inr (.inr (.inr ⟨hg, hl', ha, rfl⟩))
    · rw [if_pos hl]
      exact .inr (.inl ⟨hg, fun e => hl ((lengthOk_iff s).2 e), rfl⟩)
  · rw [cfgGlobal_of_illegal hg]
    exact .inl ⟨hg, rfl⟩

/-- BVDECODE (R164): a configuration error, no message, or a message. -/
theorem execBvdecode_cases (s : State) :
    (∃ f, cfgAll s = some f ∧ execBvdecode s = noMessage 0x06 false f s) ∨
    (GeometryLegal s ∧ ModeLegal s ∧ ∃ f, decodeMessage s = .error f ∧ execBvdecode s = noMessage 0x06 false f s) ∨
    (GeometryLegal s ∧ ModeLegal s ∧ ∃ t, decodeMessage s = .ok t ∧ execBvdecode s = finish 0x06 false t) := by
  unfold execBvdecode
  cases hc : cfgAll s with
  | some f => exact .inl ⟨f, rfl, rfl⟩
  | none =>
    obtain ⟨hg, hm⟩ := (cfgAll_eq_none_iff s).1 hc
    cases hd : decodeMessage s with
    | error f => exact .inr (.inl ⟨hg, hm, f, rfl, rfl⟩)
    | ok t => exact .inr (.inr ⟨hg, hm, t, rfl, rfl⟩)

/-- DECODE (R165): a configuration error, or what `decodeTrain` ends with. -/
theorem execDecode_cases (s : State) :
    (∃ f, cfgAll s = some f ∧ execDecode s = noMessage 0x07 false f s) ∨
    (GeometryLegal s ∧ ModeLegal s ∧ ∃ f, (decodeTrain s).failure = some f ∧
      execDecode s = noMessage 0x07 (decodeTrain s).amb f (decodeTrain s).state) ∨
    (GeometryLegal s ∧ ModeLegal s ∧ (decodeTrain s).failure = none ∧
      execDecode s = finish 0x07 (decodeTrain s).amb (decodeTrain s).state) := by
  unfold execDecode
  cases hc : cfgAll s with
  | some f => exact .inl ⟨f, rfl, rfl⟩
  | none =>
    obtain ⟨hg, hm⟩ := (cfgAll_eq_none_iff s).1 hc
    cases hd : (decodeTrain s).failure with
    | some f => exact .inr (.inl ⟨hg, hm, f, rfl, rfl⟩)
    | none => exact .inr (.inr ⟨hg, hm, rfl, rfl⟩)

/-- R167: the request check passes exactly when the request is legal for the selected strategy. -/
theorem requestCheck_eq_none_iff (s : State) : requestCheck s = none ↔ RequestPasses s := by
  unfold requestCheck RequestPasses
  cases hm : s.mode with
  | fields => simp [fieldCheck_eq_none_iff]
  | patterns => simp [patternCheck_eq_none_iff]

/-- REQCHK (R167): a configuration error, a request error, or success. -/
theorem execReqchk_cases (s : State) :
    (∃ f, cfgAll s = some f ∧ execReqchk s = fail 0x08 false f s) ∨
    (GeometryLegal s ∧ ModeLegal s ∧ ∃ f, requestCheck s = some f ∧ execReqchk s = fail 0x08 false f s) ∨
    (GeometryLegal s ∧ ModeLegal s ∧ RequestPasses s ∧ execReqchk s = finish 0x08 false s) := by
  unfold execReqchk
  cases hc : cfgAll s with
  | some f => exact .inl ⟨f, rfl, rfl⟩
  | none =>
    obtain ⟨hg, hm⟩ := (cfgAll_eq_none_iff s).1 hc
    cases hr : requestCheck s with
    | some f => exact .inr (.inl ⟨hg, hm, f, rfl, rfl⟩)
    | none => exact .inr (.inr ⟨hg, hm, (requestCheck_eq_none_iff s).1 hr, rfl⟩)

/-- ENCODE (R168): a configuration error, a request error, or the train and its echo. -/
theorem execEncode_cases (s : State) :
    (∃ f, cfgAll s = some f ∧ execEncode s = fail 0x09 false f s) ∨
    (GeometryLegal s ∧ ModeLegal s ∧ ∃ f, requestCheck s = some f ∧ execEncode s = fail 0x09 false f s) ∨
    (GeometryLegal s ∧ ModeLegal s ∧ RequestPasses s ∧
      execEncode s = finish 0x09 false (echoDecode (synth s (encodeCanvas s)))) := by
  unfold execEncode
  cases hc : cfgAll s with
  | some f => exact .inl ⟨f, rfl, rfl⟩
  | none =>
    obtain ⟨hg, hm⟩ := (cfgAll_eq_none_iff s).1 hc
    cases hr : requestCheck s with
    | some f => exact .inr (.inl ⟨hg, hm, f, rfl, rfl⟩)
    | none => exact .inr (.inr ⟨hg, hm, (requestCheck_eq_none_iff s).1 hr, rfl⟩)

end Sys2Proof.Machine
end

