-- ==== Sys2Proof/Laws/HostPort.lean ====
section
/-! SUPPORT. What one input of each form does, and what a write to one register leaves of the others. -/

namespace Sys2Proof.Machine

theorem step_idle {s : State} (h : s.pending = []) : step s = .next s := by
  unfold step takeInput; rw [h]

theorem step_cons {s : State} {i : Input} {rest : List Input} (h : s.pending = i :: rest) :
    step s = acceptInput { s with pending := rest } i := by
  unfold step takeInput; rw [h]

theorem accessRefusal_eq_none_iff (s : State) (addr : BitVec 12) (size : AccessSize) :
    accessRefusal s addr size = none ↔
      s.resetAsserted = false ∧ size = .word ∧ addr.extractLsb' 0 2 = 0 := by
  unfold accessRefusal
  cases s.resetAsserted <;> by_cases h1 : size = .word <;> by_cases h2 : addr.extractLsb' 0 2 = 0 <;> simp [h1, h2]

/-- Every command ends in a next state (R12). -/
theorem exec_next (i : Instr) (s : State) : ∃ t, exec i s = .next t := by
  cases i with
  | nop => exact ⟨_, rfl⟩
  | inrange => exact ⟨_, rfl⟩
  | b2v a b => rcases execB2v_cases a b s with ⟨_, h⟩ | ⟨_, _, h⟩ <;> exact ⟨_, h⟩
  | v2b => exact ⟨_, rfl⟩
  | validate => rcases execValidate_cases s with ⟨_, h⟩ | ⟨_, _, _, h⟩ | ⟨_, _, h⟩ <;> exact ⟨_, h⟩
  | demod =>
    rcases execDemod_cases s with ⟨_, h⟩ | ⟨_, _, h⟩ | ⟨_, _, _, h⟩ | ⟨_, _, _, h⟩ <;> exact ⟨_, h⟩
  | bvdecode => rcases execBvdecode_cases s with ⟨_, _, h⟩ | ⟨_, _, _, _, h⟩ | ⟨_, _, _, _, h⟩ <;> exact ⟨_, h⟩
  | decode => rcases execDecode_cases s with ⟨_, _, h⟩ | ⟨_, _, _, _, h⟩ | ⟨_, _, _, h⟩ <;> exact ⟨_, h⟩
  | reqchk => rcases execReqchk_cases s with ⟨_, _, h⟩ | ⟨_, _, _, _, h⟩ | ⟨_, _, _, h⟩ <;> exact ⟨_, h⟩
  | encode => rcases execEncode_cases s with ⟨_, _, h⟩ | ⟨_, _, _, _, h⟩ | ⟨_, _, _, h⟩ <;> exact ⟨_, h⟩

/-- Every word written to CMD, legal or not, ends in a next state (R77, R161). -/
theorem runCommand_next (w : Word) (s : State) : ∃ t, runCommand w s = .next t := by
  unfold runCommand
  cases decode w with
  | error e => exact ⟨_, rfl⟩
  | ok i => exact exec_next i s

/-- The register at a register's offset is that register; its offset is an aligned one of the window (R59, R63). -/
theorem regAt_offset (r : Reg) : regAt r.offset = some r ∧ r.offset % 4 = 0 ∧ r.offset < 4096 := by
  cases r
  case fdCfg k => revert k; decide
  case fdConst k => revert k; decide
  case fdMin k => revert k; decide
  case fdMax k => revert k; decide
  case smRaw k => revert k; decide
  case smSem k => revert k; decide
  case cfCfg k => revert k; decide
  case cfVal k => revert k; decide
  case req k => revert k; decide
  case msg k => revert k; decide
  case bvw k => revert k; decide
  case ptw e w =>
    have := e.isLt; have := w.isLt
    simp only [Reg.offset]
    refine ⟨?_, by omega, by omega⟩
    unfold regAt
    repeat rw [if_neg (by omega)]
    rw [if_pos (by omega)]
    congr 2 <;> apply Fin.ext <;> simp [Fin.ofNat] <;> omega
  case pulse p =>
    have := p.isLt
    simp only [Reg.offset]
    refine ⟨?_, by omega, by omega⟩
    unfold regAt
    repeat rw [if_neg (by omega)]
    rw [if_pos (by omega)]
    congr 2; apply Fin.ext; simp only [Fin.ofNat]; omega
  all_goals decide

/-- Every aligned offset of the window, tried: a register found there has that offset. -/
theorem regAt_table : ∀ n < 1024, ((regAt (4 * n)).all fun r => decide (r.offset = 4 * n)) = true := by
  decide +kernel

/-- The register found at an aligned offset of the window is the one with that offset. -/
theorem regAt_sound {n : Nat} {r : Reg} (hn : n < 4096) (h4 : n % 4 = 0) (h : regAt n = some r) : r.offset = n := by
  have ht := regAt_table (n / 4) (by omega)
  rw [show 4 * (n / 4) = n by omega, h] at ht
  exact of_decide_eq_true ht

/-- No register has an aligned offset of the window at which none is found (R49). -/
theorem regAt_eq_none {n : Nat} (h : regAt n = none) (r : Reg) : r.offset ≠ n := by
  rintro rfl
  rw [(regAt_offset r).1] at h
  cases h

theorem toNat_offset (r : Reg) : (BitVec.ofNat 12 r.offset).toNat = r.offset := by
  have := (regAt_offset r).2.2
  rw [BitVec.toNat_ofNat]
  omega

/-- An aligned word access outside reset is not refused (R63, R66). -/
theorem accessRefusal_aligned {s : State} {addr : BitVec 12} (hr : s.resetAsserted = false)
    (ha : addr.toNat % 4 = 0) : accessRefusal s addr .word = none := by
  rw [accessRefusal_eq_none_iff]
  refine ⟨hr, rfl, BitVec.eq_of_toNat_eq ?_⟩
  rw [BitVec.extractLsb'_toNat]
  simpa using ha

/-- A store in a writable register reads back (R47). -/
theorem readReg_putReg_self (s : State) {r : Reg} (v : Word) (hr : r.writable = true) :
    readReg (putReg s r v) r = v := by
  cases r <;> first
    | rfl
    | (exfalso; exact Bool.noConfusion hr)
    | simp [readReg, putReg, wordOf_setWord]

/-- A store in one register leaves what the host reads of every other, but for the computed BV_LEN (R25, R47). -/
theorem readReg_putReg_of_ne (s : State) {r q : Reg} (v : Word) (hq : q ≠ r) (hb : q ≠ .bvLen) :
    readReg (putReg s r v) q = readReg s q := by
  cases r <;> cases q <;> first
    | rfl
    | (exfalso; exact hb rfl)
    | (exfalso; exact hq rfl)
    | (simp only [readReg, putReg, wordOf_setWord]; rw [if_neg (fun h => hq (by rw [h]))])
    | (simp only [readReg, putReg, Fin.getElem_fin, Vector.getElem_set]; split <;> simp_all [Fin.ext_iff]; done)
    | skip
  all_goals
    simp only [readReg, putReg, Fin.getElem_fin, Vector.getElem_set]
    split
    · next h =>
      have he := Fin.ext h
      subst he
      rw [wordOf_setWord, if_neg (fun h => hq (by rw [h]))]
    · rfl

end Sys2Proof.Machine
end

