-- ==== Sys2Proof/Laws/PerInstr.lean ====
section
/-! SUPPORT. The family of facts about each command as syntax: its word has its opcode in bits 7:0, no reserved bit set,
and carries its arguments in the A and B fields (R78, R79, R82). -/

namespace Sys2Proof.Laws.WordFields

/-- R78, R82: the fields of a well-formed command's word. -/
def Statement (i : Instr) : Prop :=
  WellFormed i →
    opField (encode i) = opcode i ∧ rsvField (encode i) = 0 ∧
      (aField (encode i)).toNat = (arguments i).1 ∧ (bField (encode i)).toNat = (arguments i).2

theorem nop : Statement .nop := fun _ => by decide

theorem inrange : Statement .inrange := fun _ => by decide

theorem b2v (start stop : Nat) : Statement (.b2v start stop) := by
  intro h
  simp only [WellFormed, wellFormed, argumentFits, Bool.and_eq_true, decide_eq_true_eq] at h
  have h2 : (opcode (.b2v start stop)).toNat = 2 := rfl
  have hw : (encode (.b2v start stop)).toNat = stop * 65536 + start * 256 + 2 := by
    simp only [encode, arguments, h2, BitVec.toNat_ofNat]
    omega
  have hx : ∀ lo, ((encode (.b2v start stop)).extractLsb' lo 8).toNat =
      (stop * 65536 + start * 256 + 2) / 2 ^ lo % 256 := by
    intro lo
    rw [BitVec.extractLsb'_toNat, hw, Nat.shiftRight_eq_div_pow]
  refine ⟨BitVec.eq_of_toNat_eq ?_, BitVec.eq_of_toNat_eq ?_, ?_, ?_⟩
  · rw [opField, hx, h2]; omega
  · rw [rsvField, hx]
    show _ = 0
    omega
  · rw [aField, hx]
    show _ = start
    omega
  · rw [bField, hx]
    show _ = stop
    omega

theorem v2b : Statement .v2b := fun _ => by decide

theorem validate : Statement .validate := fun _ => by decide

theorem demod : Statement .demod := fun _ => by decide

theorem bvdecode : Statement .bvdecode := fun _ => by decide

theorem decode : Statement .decode := fun _ => by decide

theorem reqchk : Statement .reqchk := fun _ => by decide

theorem encode : Statement .encode := fun _ => by decide

end Sys2Proof.Laws.WordFields
end

