-- ==== Sys2Proof/Laws/State.lean ====
section
/-! SUPPORT. One lemma per field for each named update of State, true by `rfl`. -/

namespace Sys2Proof.Machine

/-! `demod_body()` writes BV and AMB_POS (R127). -/

@[simp] theorem demodBody_ctrl (s : State) : (demodBody s).ctrl = s.ctrl := rfl
@[simp] theorem demodBody_cmd (s : State) : (demodBody s).cmd = s.cmd := rfl
@[simp] theorem demodBody_status (s : State) : (demodBody s).status = s.status := rfl
@[simp] theorem demodBody_opa (s : State) : (demodBody s).opa = s.opa := rfl
@[simp] theorem demodBody_opb (s : State) : (demodBody s).opb = s.opb := rfl
@[simp] theorem demodBody_result (s : State) : (demodBody s).result = s.result := rfl
@[simp] theorem demodBody_result2 (s : State) : (demodBody s).result2 = s.result2 := rfl
@[simp] theorem demodBody_lo (s : State) : (demodBody s).lo = s.lo := rfl
@[simp] theorem demodBody_hi (s : State) : (demodBody s).hi = s.hi := rfl
@[simp] theorem demodBody_ambPos (s : State) : (demodBody s).ambPos = match firstAmbiguous s with | some i => BitVec.ofNat 32 i | none => Config.noPosition := rfl
@[simp] theorem demodBody_pulseCount (s : State) : (demodBody s).pulseCount = s.pulseCount := rfl
@[simp] theorem demodBody_msgStat (s : State) : (demodBody s).msgStat = s.msgStat := rfl
@[simp] theorem demodBody_trainLen (s : State) : (demodBody s).trainLen = s.trainLen := rfl
@[simp] theorem demodBody_epsNum (s : State) : (demodBody s).epsNum = s.epsNum := rfl
@[simp] theorem demodBody_hdrLen (s : State) : (demodBody s).hdrLen = s.hdrLen := rfl
@[simp] theorem demodBody_hdrD0 (s : State) : (demodBody s).hdrD0 = s.hdrD0 := rfl
@[simp] theorem demodBody_hdrD1 (s : State) : (demodBody s).hdrD1 = s.hdrD1 := rfl
@[simp] theorem demodBody_ftrLen (s : State) : (demodBody s).ftrLen = s.ftrLen := rfl
@[simp] theorem demodBody_ftrD0 (s : State) : (demodBody s).ftrD0 = s.ftrD0 := rfl
@[simp] theorem demodBody_ftrD1 (s : State) : (demodBody s).ftrD1 = s.ftrD1 := rfl
@[simp] theorem demodBody_lowD0 (s : State) : (demodBody s).lowD0 = s.lowD0 := rfl
@[simp] theorem demodBody_lowD1 (s : State) : (demodBody s).lowD1 = s.lowD1 := rfl
@[simp] theorem demodBody_highD0 (s : State) : (demodBody s).highD0 = s.highD0 := rfl
@[simp] theorem demodBody_highD1 (s : State) : (demodBody s).highD1 = s.highD1 := rfl
@[simp] theorem demodBody_guardLen (s : State) : (demodBody s).guardLen = s.guardLen := rfl
@[simp] theorem demodBody_ptDim (s : State) : (demodBody s).ptDim = s.ptDim := rfl
@[simp] theorem demodBody_reqPresent (s : State) : (demodBody s).reqPresent = s.reqPresent := rfl
@[simp] theorem demodBody_fd (s : State) : (demodBody s).fd = s.fd := rfl
@[simp] theorem demodBody_sm (s : State) : (demodBody s).sm = s.sm := rfl
@[simp] theorem demodBody_cf (s : State) : (demodBody s).cf = s.cf := rfl
@[simp] theorem demodBody_req (s : State) : (demodBody s).req = s.req := rfl
@[simp] theorem demodBody_msg (s : State) : (demodBody s).msg = s.msg := rfl
@[simp] theorem demodBody_reqCmd (s : State) : (demodBody s).reqCmd = s.reqCmd := rfl
@[simp] theorem demodBody_reqSidx (s : State) : (demodBody s).reqSidx = s.reqSidx := rfl
@[simp] theorem demodBody_msgCmd (s : State) : (demodBody s).msgCmd = s.msgCmd := rfl
@[simp] theorem demodBody_msgSidx (s : State) : (demodBody s).msgSidx = s.msgSidx := rfl
@[simp] theorem demodBody_bv (s : State) : (demodBody s).bv = demodVector s := rfl
@[simp] theorem demodBody_pt (s : State) : (demodBody s).pt = s.pt := rfl
@[simp] theorem demodBody_pulse (s : State) : (demodBody s).pulse = s.pulse := rfl
@[simp] theorem demodBody_pending (s : State) : (demodBody s).pending = s.pending := rfl
@[simp] theorem demodBody_replies (s : State) : (demodBody s).replies = s.replies := rfl
@[simp] theorem demodBody_resetAsserted (s : State) : (demodBody s).resetAsserted = s.resetAsserted := rfl
@[simp] theorem demodBody_powerOns (s : State) : (demodBody s).powerOns = s.powerOns := rfl

/-! `synth()` writes PULSE and PULSE_COUNT (R128, R130). -/

@[simp] theorem synth_ctrl (s : State) (c : BitVec 256) : (synth s c).ctrl = s.ctrl := rfl
@[simp] theorem synth_cmd (s : State) (c : BitVec 256) : (synth s c).cmd = s.cmd := rfl
@[simp] theorem synth_status (s : State) (c : BitVec 256) : (synth s c).status = s.status := rfl
@[simp] theorem synth_opa (s : State) (c : BitVec 256) : (synth s c).opa = s.opa := rfl
@[simp] theorem synth_opb (s : State) (c : BitVec 256) : (synth s c).opb = s.opb := rfl
@[simp] theorem synth_result (s : State) (c : BitVec 256) : (synth s c).result = s.result := rfl
@[simp] theorem synth_result2 (s : State) (c : BitVec 256) : (synth s c).result2 = s.result2 := rfl
@[simp] theorem synth_lo (s : State) (c : BitVec 256) : (synth s c).lo = s.lo := rfl
@[simp] theorem synth_hi (s : State) (c : BitVec 256) : (synth s c).hi = s.hi := rfl
@[simp] theorem synth_ambPos (s : State) (c : BitVec 256) : (synth s c).ambPos = s.ambPos := rfl
@[simp] theorem synth_pulseCount (s : State) (c : BitVec 256) : (synth s c).pulseCount = BitVec.ofNat 32 s.trainLength := rfl
@[simp] theorem synth_msgStat (s : State) (c : BitVec 256) : (synth s c).msgStat = s.msgStat := rfl
@[simp] theorem synth_trainLen (s : State) (c : BitVec 256) : (synth s c).trainLen = s.trainLen := rfl
@[simp] theorem synth_epsNum (s : State) (c : BitVec 256) : (synth s c).epsNum = s.epsNum := rfl
@[simp] theorem synth_hdrLen (s : State) (c : BitVec 256) : (synth s c).hdrLen = s.hdrLen := rfl
@[simp] theorem synth_hdrD0 (s : State) (c : BitVec 256) : (synth s c).hdrD0 = s.hdrD0 := rfl
@[simp] theorem synth_hdrD1 (s : State) (c : BitVec 256) : (synth s c).hdrD1 = s.hdrD1 := rfl
@[simp] theorem synth_ftrLen (s : State) (c : BitVec 256) : (synth s c).ftrLen = s.ftrLen := rfl
@[simp] theorem synth_ftrD0 (s : State) (c : BitVec 256) : (synth s c).ftrD0 = s.ftrD0 := rfl
@[simp] theorem synth_ftrD1 (s : State) (c : BitVec 256) : (synth s c).ftrD1 = s.ftrD1 := rfl
@[simp] theorem synth_lowD0 (s : State) (c : BitVec 256) : (synth s c).lowD0 = s.lowD0 := rfl
@[simp] theorem synth_lowD1 (s : State) (c : BitVec 256) : (synth s c).lowD1 = s.lowD1 := rfl
@[simp] theorem synth_highD0 (s : State) (c : BitVec 256) : (synth s c).highD0 = s.highD0 := rfl
@[simp] theorem synth_highD1 (s : State) (c : BitVec 256) : (synth s c).highD1 = s.highD1 := rfl
@[simp] theorem synth_guardLen (s : State) (c : BitVec 256) : (synth s c).guardLen = s.guardLen := rfl
@[simp] theorem synth_ptDim (s : State) (c : BitVec 256) : (synth s c).ptDim = s.ptDim := rfl
@[simp] theorem synth_reqPresent (s : State) (c : BitVec 256) : (synth s c).reqPresent = s.reqPresent := rfl
@[simp] theorem synth_fd (s : State) (c : BitVec 256) : (synth s c).fd = s.fd := rfl
@[simp] theorem synth_sm (s : State) (c : BitVec 256) : (synth s c).sm = s.sm := rfl
@[simp] theorem synth_cf (s : State) (c : BitVec 256) : (synth s c).cf = s.cf := rfl
@[simp] theorem synth_req (s : State) (c : BitVec 256) : (synth s c).req = s.req := rfl
@[simp] theorem synth_msg (s : State) (c : BitVec 256) : (synth s c).msg = s.msg := rfl
@[simp] theorem synth_reqCmd (s : State) (c : BitVec 256) : (synth s c).reqCmd = s.reqCmd := rfl
@[simp] theorem synth_reqSidx (s : State) (c : BitVec 256) : (synth s c).reqSidx = s.reqSidx := rfl
@[simp] theorem synth_msgCmd (s : State) (c : BitVec 256) : (synth s c).msgCmd = s.msgCmd := rfl
@[simp] theorem synth_msgSidx (s : State) (c : BitVec 256) : (synth s c).msgSidx = s.msgSidx := rfl
@[simp] theorem synth_bv (s : State) (c : BitVec 256) : (synth s c).bv = s.bv := rfl
@[simp] theorem synth_pt (s : State) (c : BitVec 256) : (synth s c).pt = s.pt := rfl
@[simp] theorem synth_pulse (s : State) (c : BitVec 256) : (synth s c).pulse = synthFooter s (synthHeader s (synthBody s c)) := rfl
@[simp] theorem synth_pending (s : State) (c : BitVec 256) : (synth s c).pending = s.pending := rfl
@[simp] theorem synth_replies (s : State) (c : BitVec 256) : (synth s c).replies = s.replies := rfl
@[simp] theorem synth_resetAsserted (s : State) (c : BitVec 256) : (synth s c).resetAsserted = s.resetAsserted := rfl
@[simp] theorem synth_powerOns (s : State) (c : BitVec 256) : (synth s c).powerOns = s.powerOns := rfl

/-! Soft reset (R189). -/

@[simp] theorem softReset_ctrl (s : State) : (softReset s).ctrl = State.reset.ctrl := rfl
@[simp] theorem softReset_cmd (s : State) : (softReset s).cmd = State.reset.cmd := rfl
@[simp] theorem softReset_status (s : State) : (softReset s).status = State.reset.status := rfl
@[simp] theorem softReset_opa (s : State) : (softReset s).opa = State.reset.opa := rfl
@[simp] theorem softReset_opb (s : State) : (softReset s).opb = State.reset.opb := rfl
@[simp] theorem softReset_result (s : State) : (softReset s).result = State.reset.result := rfl
@[simp] theorem softReset_result2 (s : State) : (softReset s).result2 = State.reset.result2 := rfl
@[simp] theorem softReset_lo (s : State) : (softReset s).lo = State.reset.lo := rfl
@[simp] theorem softReset_hi (s : State) : (softReset s).hi = State.reset.hi := rfl
@[simp] theorem softReset_ambPos (s : State) : (softReset s).ambPos = State.reset.ambPos := rfl
@[simp] theorem softReset_pulseCount (s : State) : (softReset s).pulseCount = State.reset.pulseCount := rfl
@[simp] theorem softReset_msgStat (s : State) : (softReset s).msgStat = State.reset.msgStat := rfl
@[simp] theorem softReset_trainLen (s : State) : (softReset s).trainLen = State.reset.trainLen := rfl
@[simp] theorem softReset_epsNum (s : State) : (softReset s).epsNum = State.reset.epsNum := rfl
@[simp] theorem softReset_hdrLen (s : State) : (softReset s).hdrLen = State.reset.hdrLen := rfl
@[simp] theorem softReset_hdrD0 (s : State) : (softReset s).hdrD0 = State.reset.hdrD0 := rfl
@[simp] theorem softReset_hdrD1 (s : State) : (softReset s).hdrD1 = State.reset.hdrD1 := rfl
@[simp] theorem softReset_ftrLen (s : State) : (softReset s).ftrLen = State.reset.ftrLen := rfl
@[simp] theorem softReset_ftrD0 (s : State) : (softReset s).ftrD0 = State.reset.ftrD0 := rfl
@[simp] theorem softReset_ftrD1 (s : State) : (softReset s).ftrD1 = State.reset.ftrD1 := rfl
@[simp] theorem softReset_lowD0 (s : State) : (softReset s).lowD0 = State.reset.lowD0 := rfl
@[simp] theorem softReset_lowD1 (s : State) : (softReset s).lowD1 = State.reset.lowD1 := rfl
@[simp] theorem softReset_highD0 (s : State) : (softReset s).highD0 = State.reset.highD0 := rfl
@[simp] theorem softReset_highD1 (s : State) : (softReset s).highD1 = State.reset.highD1 := rfl
@[simp] theorem softReset_guardLen (s : State) : (softReset s).guardLen = State.reset.guardLen := rfl
@[simp] theorem softReset_ptDim (s : State) : (softReset s).ptDim = State.reset.ptDim := rfl
@[simp] theorem softReset_reqPresent (s : State) : (softReset s).reqPresent = State.reset.reqPresent := rfl
@[simp] theorem softReset_fd (s : State) : (softReset s).fd = State.reset.fd := rfl
@[simp] theorem softReset_sm (s : State) : (softReset s).sm = State.reset.sm := rfl
@[simp] theorem softReset_cf (s : State) : (softReset s).cf = State.reset.cf := rfl
@[simp] theorem softReset_req (s : State) : (softReset s).req = State.reset.req := rfl
@[simp] theorem softReset_msg (s : State) : (softReset s).msg = State.reset.msg := rfl
@[simp] theorem softReset_reqCmd (s : State) : (softReset s).reqCmd = State.reset.reqCmd := rfl
@[simp] theorem softReset_reqSidx (s : State) : (softReset s).reqSidx = State.reset.reqSidx := rfl
@[simp] theorem softReset_msgCmd (s : State) : (softReset s).msgCmd = State.reset.msgCmd := rfl
@[simp] theorem softReset_msgSidx (s : State) : (softReset s).msgSidx = State.reset.msgSidx := rfl
@[simp] theorem softReset_bv (s : State) : (softReset s).bv = State.reset.bv := rfl
@[simp] theorem softReset_pt (s : State) : (softReset s).pt = s.pt := rfl
@[simp] theorem softReset_pulse (s : State) : (softReset s).pulse = s.pulse := rfl
@[simp] theorem softReset_pending (s : State) : (softReset s).pending = s.pending := rfl
@[simp] theorem softReset_replies (s : State) : (softReset s).replies = s.replies := rfl
@[simp] theorem softReset_resetAsserted (s : State) : (softReset s).resetAsserted = s.resetAsserted := rfl
@[simp] theorem softReset_powerOns (s : State) : (softReset s).powerOns = s.powerOns := rfl

/-! Power-on reset (R188). -/

@[simp] theorem powerOnReset_ctrl (s : State) : (powerOnReset s).ctrl = State.reset.ctrl := rfl
@[simp] theorem powerOnReset_cmd (s : State) : (powerOnReset s).cmd = State.reset.cmd := rfl
@[simp] theorem powerOnReset_status (s : State) : (powerOnReset s).status = State.reset.status := rfl
@[simp] theorem powerOnReset_opa (s : State) : (powerOnReset s).opa = State.reset.opa := rfl
@[simp] theorem powerOnReset_opb (s : State) : (powerOnReset s).opb = State.reset.opb := rfl
@[simp] theorem powerOnReset_result (s : State) : (powerOnReset s).result = State.reset.result := rfl
@[simp] theorem powerOnReset_result2 (s : State) : (powerOnReset s).result2 = State.reset.result2 := rfl
@[simp] theorem powerOnReset_lo (s : State) : (powerOnReset s).lo = State.reset.lo := rfl
@[simp] theorem powerOnReset_hi (s : State) : (powerOnReset s).hi = State.reset.hi := rfl
@[simp] theorem powerOnReset_ambPos (s : State) : (powerOnReset s).ambPos = State.reset.ambPos := rfl
@[simp] theorem powerOnReset_pulseCount (s : State) : (powerOnReset s).pulseCount = State.reset.pulseCount := rfl
@[simp] theorem powerOnReset_msgStat (s : State) : (powerOnReset s).msgStat = State.reset.msgStat := rfl
@[simp] theorem powerOnReset_trainLen (s : State) : (powerOnReset s).trainLen = State.reset.trainLen := rfl
@[simp] theorem powerOnReset_epsNum (s : State) : (powerOnReset s).epsNum = State.reset.epsNum := rfl
@[simp] theorem powerOnReset_hdrLen (s : State) : (powerOnReset s).hdrLen = State.reset.hdrLen := rfl
@[simp] theorem powerOnReset_hdrD0 (s : State) : (powerOnReset s).hdrD0 = State.reset.hdrD0 := rfl
@[simp] theorem powerOnReset_hdrD1 (s : State) : (powerOnReset s).hdrD1 = State.reset.hdrD1 := rfl
@[simp] theorem powerOnReset_ftrLen (s : State) : (powerOnReset s).ftrLen = State.reset.ftrLen := rfl
@[simp] theorem powerOnReset_ftrD0 (s : State) : (powerOnReset s).ftrD0 = State.reset.ftrD0 := rfl
@[simp] theorem powerOnReset_ftrD1 (s : State) : (powerOnReset s).ftrD1 = State.reset.ftrD1 := rfl
@[simp] theorem powerOnReset_lowD0 (s : State) : (powerOnReset s).lowD0 = State.reset.lowD0 := rfl
@[simp] theorem powerOnReset_lowD1 (s : State) : (powerOnReset s).lowD1 = State.reset.lowD1 := rfl
@[simp] theorem powerOnReset_highD0 (s : State) : (powerOnReset s).highD0 = State.reset.highD0 := rfl
@[simp] theorem powerOnReset_highD1 (s : State) : (powerOnReset s).highD1 = State.reset.highD1 := rfl
@[simp] theorem powerOnReset_guardLen (s : State) : (powerOnReset s).guardLen = State.reset.guardLen := rfl
@[simp] theorem powerOnReset_ptDim (s : State) : (powerOnReset s).ptDim = State.reset.ptDim := rfl
@[simp] theorem powerOnReset_reqPresent (s : State) : (powerOnReset s).reqPresent = State.reset.reqPresent := rfl
@[simp] theorem powerOnReset_fd (s : State) : (powerOnReset s).fd = State.reset.fd := rfl
@[simp] theorem powerOnReset_sm (s : State) : (powerOnReset s).sm = State.reset.sm := rfl
@[simp] theorem powerOnReset_cf (s : State) : (powerOnReset s).cf = State.reset.cf := rfl
@[simp] theorem powerOnReset_req (s : State) : (powerOnReset s).req = State.reset.req := rfl
@[simp] theorem powerOnReset_msg (s : State) : (powerOnReset s).msg = State.reset.msg := rfl
@[simp] theorem powerOnReset_reqCmd (s : State) : (powerOnReset s).reqCmd = State.reset.reqCmd := rfl
@[simp] theorem powerOnReset_reqSidx (s : State) : (powerOnReset s).reqSidx = State.reset.reqSidx := rfl
@[simp] theorem powerOnReset_msgCmd (s : State) : (powerOnReset s).msgCmd = State.reset.msgCmd := rfl
@[simp] theorem powerOnReset_msgSidx (s : State) : (powerOnReset s).msgSidx = State.reset.msgSidx := rfl
@[simp] theorem powerOnReset_bv (s : State) : (powerOnReset s).bv = State.reset.bv := rfl
@[simp] theorem powerOnReset_pt (s : State) : (powerOnReset s).pt = powerOnPatterns (s.powerOns + 1) := rfl
@[simp] theorem powerOnReset_pulse (s : State) : (powerOnReset s).pulse = powerOnPulses (s.powerOns + 1) := rfl
@[simp] theorem powerOnReset_pending (s : State) : (powerOnReset s).pending = s.pending := rfl
@[simp] theorem powerOnReset_replies (s : State) : (powerOnReset s).replies = s.replies := rfl
@[simp] theorem powerOnReset_resetAsserted (s : State) : (powerOnReset s).resetAsserted = false := rfl
@[simp] theorem powerOnReset_powerOns (s : State) : (powerOnReset s).powerOns = s.powerOns + 1 := rfl

/-! A command offered at the port. -/

@[simp] theorem offerCommand_ctrl (s : State) (w : Word) : (s.offerCommand w).ctrl = s.ctrl := rfl
@[simp] theorem offerCommand_cmd (s : State) (w : Word) : (s.offerCommand w).cmd = s.cmd := rfl
@[simp] theorem offerCommand_status (s : State) (w : Word) : (s.offerCommand w).status = s.status := rfl
@[simp] theorem offerCommand_opa (s : State) (w : Word) : (s.offerCommand w).opa = s.opa := rfl
@[simp] theorem offerCommand_opb (s : State) (w : Word) : (s.offerCommand w).opb = s.opb := rfl
@[simp] theorem offerCommand_result (s : State) (w : Word) : (s.offerCommand w).result = s.result := rfl
@[simp] theorem offerCommand_result2 (s : State) (w : Word) : (s.offerCommand w).result2 = s.result2 := rfl
@[simp] theorem offerCommand_lo (s : State) (w : Word) : (s.offerCommand w).lo = s.lo := rfl
@[simp] theorem offerCommand_hi (s : State) (w : Word) : (s.offerCommand w).hi = s.hi := rfl
@[simp] theorem offerCommand_ambPos (s : State) (w : Word) : (s.offerCommand w).ambPos = s.ambPos := rfl
@[simp] theorem offerCommand_pulseCount (s : State) (w : Word) : (s.offerCommand w).pulseCount = s.pulseCount := rfl
@[simp] theorem offerCommand_msgStat (s : State) (w : Word) : (s.offerCommand w).msgStat = s.msgStat := rfl
@[simp] theorem offerCommand_trainLen (s : State) (w : Word) : (s.offerCommand w).trainLen = s.trainLen := rfl
@[simp] theorem offerCommand_epsNum (s : State) (w : Word) : (s.offerCommand w).epsNum = s.epsNum := rfl
@[simp] theorem offerCommand_hdrLen (s : State) (w : Word) : (s.offerCommand w).hdrLen = s.hdrLen := rfl
@[simp] theorem offerCommand_hdrD0 (s : State) (w : Word) : (s.offerCommand w).hdrD0 = s.hdrD0 := rfl
@[simp] theorem offerCommand_hdrD1 (s : State) (w : Word) : (s.offerCommand w).hdrD1 = s.hdrD1 := rfl
@[simp] theorem offerCommand_ftrLen (s : State) (w : Word) : (s.offerCommand w).ftrLen = s.ftrLen := rfl
@[simp] theorem offerCommand_ftrD0 (s : State) (w : Word) : (s.offerCommand w).ftrD0 = s.ftrD0 := rfl
@[simp] theorem offerCommand_ftrD1 (s : State) (w : Word) : (s.offerCommand w).ftrD1 = s.ftrD1 := rfl
@[simp] theorem offerCommand_lowD0 (s : State) (w : Word) : (s.offerCommand w).lowD0 = s.lowD0 := rfl
@[simp] theorem offerCommand_lowD1 (s : State) (w : Word) : (s.offerCommand w).lowD1 = s.lowD1 := rfl
@[simp] theorem offerCommand_highD0 (s : State) (w : Word) : (s.offerCommand w).highD0 = s.highD0 := rfl
@[simp] theorem offerCommand_highD1 (s : State) (w : Word) : (s.offerCommand w).highD1 = s.highD1 := rfl
@[simp] theorem offerCommand_guardLen (s : State) (w : Word) : (s.offerCommand w).guardLen = s.guardLen := rfl
@[simp] theorem offerCommand_ptDim (s : State) (w : Word) : (s.offerCommand w).ptDim = s.ptDim := rfl
@[simp] theorem offerCommand_reqPresent (s : State) (w : Word) : (s.offerCommand w).reqPresent = s.reqPresent := rfl
@[simp] theorem offerCommand_fd (s : State) (w : Word) : (s.offerCommand w).fd = s.fd := rfl
@[simp] theorem offerCommand_sm (s : State) (w : Word) : (s.offerCommand w).sm = s.sm := rfl
@[simp] theorem offerCommand_cf (s : State) (w : Word) : (s.offerCommand w).cf = s.cf := rfl
@[simp] theorem offerCommand_req (s : State) (w : Word) : (s.offerCommand w).req = s.req := rfl
@[simp] theorem offerCommand_msg (s : State) (w : Word) : (s.offerCommand w).msg = s.msg := rfl
@[simp] theorem offerCommand_reqCmd (s : State) (w : Word) : (s.offerCommand w).reqCmd = s.reqCmd := rfl
@[simp] theorem offerCommand_reqSidx (s : State) (w : Word) : (s.offerCommand w).reqSidx = s.reqSidx := rfl
@[simp] theorem offerCommand_msgCmd (s : State) (w : Word) : (s.offerCommand w).msgCmd = s.msgCmd := rfl
@[simp] theorem offerCommand_msgSidx (s : State) (w : Word) : (s.offerCommand w).msgSidx = s.msgSidx := rfl
@[simp] theorem offerCommand_bv (s : State) (w : Word) : (s.offerCommand w).bv = s.bv := rfl
@[simp] theorem offerCommand_pt (s : State) (w : Word) : (s.offerCommand w).pt = s.pt := rfl
@[simp] theorem offerCommand_pulse (s : State) (w : Word) : (s.offerCommand w).pulse = s.pulse := rfl
@[simp] theorem offerCommand_pending (s : State) (w : Word) : (s.offerCommand w).pending = commandInput w :: s.pending := rfl
@[simp] theorem offerCommand_replies (s : State) (w : Word) : (s.offerCommand w).replies = s.replies := rfl
@[simp] theorem offerCommand_resetAsserted (s : State) (w : Word) : (s.offerCommand w).resetAsserted = false := rfl
@[simp] theorem offerCommand_powerOns (s : State) (w : Word) : (s.offerCommand w).powerOns = s.powerOns := rfl

end Sys2Proof.Machine
end

