-- ==== Sys2Proof/Tests/Slice0.lean ====
section
/-! SUPPORT. Tests. `test_…`: one decoding, one check or one step, the expected value from the vector of
spec/95_test_vectors.md that the docstring names, or worked out by hand from
the encoding rules. `witness_…`: a concrete state and operands that meet the hypotheses of the statement of that name, clause by clause. -/

namespace Sys2Proof.Tests

open Sys2Proof.Machine

set_option Elab.async false

/-! ## States -/

/-- PULSE holding a list of durations, 0 after them. -/
def pulses (l : List Word) : Vector Word 512 :=
  ⟨⟨(l ++ List.replicate 512 0).take 512⟩, by
    rw [List.size_toArray, List.length_take, List.length_append, List.length_replicate]; omega⟩

/-- Power-on reset, with PULSE and PT written to 0. -/
def blank : State := { State.reset with pulse := pulses [], pt := Vector.replicate 32 0 }

/-- The body durations of 95 section 2: (960, 320) for a 1 and (320, 960) for a 0, bit 0 first. -/
def bodyOf (v : Word) (n : Nat) : List Word :=
  (List.range n).flatMap fun i => if v.getLsbD i then [960, 320] else [320, 960]

/-- A train of 95 section 2. -/
def trainOf (v : Word) (n : Nat) : List Word := [320, 2560] ++ bodyOf v n ++ [320, 10880]

/-- The registers both example protocols of 95 section 2 share. -/
def common : State :=
  { blank with
    epsNum := 750, hdrLen := 2, hdrD0 := 320, hdrD1 := 2560, ftrLen := 2, ftrD0 := 320, ftrD1 := 10880
    lowD0 := 320, lowD1 := 960, highD0 := 960, highD1 := 320 }

/-- EFP, the example field protocol. -/
def efp : State :=
  { common with
    trainLen := 68
    fd := #v[⟨0x00010F00, 0, 0, 0xFFFF⟩, ⟨0x00011310, 0, 0, 15⟩, ⟨0x00031B14, 0, 0, 0⟩, ⟨0x00021F1C, 10, 0, 0⟩,
      ⟨0, 0, 0, 0⟩, ⟨0, 0, 0, 0⟩, ⟨0, 0, 0, 0⟩, ⟨0, 0, 0, 0⟩]
    sm := #v[⟨51, 0x80000001⟩, ⟨17, 0x80000000⟩, ⟨0, 0⟩, ⟨0, 0⟩, ⟨0, 0⟩, ⟨0, 0⟩, ⟨0, 0⟩, ⟨0, 0⟩] }

/-- EFP with a train of 68 durations in PULSE. -/
def received (l : List Word) : State := { efp with pulse := pulses l, pulseCount := 68 }

/-- The example train. -/
def exampleTrain : List Word := trainOf 0xA3350064 32

/-- The example train with one body pair replaced. -/
def withPair (l : List Word) (i : Nat) (d0 d1 : Word) : List Word := (l.set (2 + 2 * i) d0).set (3 + 2 * i) d1

/-- EFP with the example request, but for the values given. -/
def requested (mask id channel code : Word) : State :=
  { efp with reqPresent := mask, req := #v[id, channel, code, 0, 0, 0, 0, 0] }

/-- EPP, the example pattern protocol. -/
def epp : State :=
  { common with
    ctrl := 4, trainLen := 28, ptDim := 0x203
    pt := ⟨⟨[0x111, 0x122, 0, 0, 0x211, 0x222, 0, 0, 0x311, 0x322] ++ List.replicate 22 0⟩, by simp⟩ }

/-- A state whose next input is `i`. -/
def offered (s : State) (i : Input) : State := { s with pending := [i] }

/-- `r` is a next state with property `p`. -/
def leaves (r : Result) (p : State → Bool) : Bool :=
  match r with
  | .next t => p t
  | .fault _ => false
  | .refused _ => false

theorem exists_of_leaves {r : Result} {p : State → Bool} (h : leaves r p = true) : ∃ t, r = .next t ∧ p t = true := by
  cases r with
  | next t => exact ⟨t, rfl, h⟩
  | fault _ => cases h
  | refused _ => cases h

/-- The reply of a step that reads. -/
def replyOf (r : Result) : Option Word :=
  match r with
  | .next t => t.replies.head?
  | .fault _ => none
  | .refused _ => none

/-- What register `q` reads after `v` is written to `r`. -/
def readAfterWrite (s : State) (r q : Reg) (v : Word) : Option Word :=
  match step (offered s (.write (BitVec.ofNat 12 r.offset) .word v)) with
  | .next t => replyOf (step (offered t (.read (BitVec.ofNat 12 q.offset) .word)))
  | .fault _ => none
  | .refused _ => none

/-! ## WellFormed -/

/-- `a = 256` fits no A field. -/
theorem test_wellFormed_refuses_wide_start : wellFormed (.b2v 256 0) = false := by decide

/-- `b = 256` fits no B field. -/
theorem test_wellFormed_refuses_wide_stop : wellFormed (.b2v 0 256) = false := by decide

theorem test_wellFormed_accepts_extremes :
    wellFormed (.b2v 255 0) = true ∧ wellFormed (.b2v 0 255) = true ∧ wellFormed .nop = true := by decide

/-! ## Decoding: RSV 31:24, B 23:16, A 15:8, OP 7:0, each word written out bit by bit -/

theorem test_decode_nop : decode 0b00000000_00000000_00000000_00000000 = .ok .nop := by decide

theorem test_decode_inrange : decode 0b00000000_00000000_00000000_00000001 = .ok .inrange := by decide

/-- BOC-B8: B2V 200, 231; and BOC-B14: B2V 255, 0. -/
theorem test_decode_b2v : decode 0b00000000_11100111_11001000_00000010 = .ok (.b2v 200 231) ∧
    decode 0b00000000_00000000_11111111_00000010 = .ok (.b2v 255 0) := by decide

theorem test_decode_v2b : decode 0b00000000_00000000_00000000_00000011 = .ok .v2b := by decide

theorem test_decode_validate : decode 0b00000000_00000000_00000000_00000100 = .ok .validate := by decide

theorem test_decode_demod : decode 0b00000000_00000000_00000000_00000101 = .ok .demod := by decide

theorem test_decode_bvdecode : decode 0b00000000_00000000_00000000_00000110 = .ok .bvdecode := by decide

theorem test_decode_decode : decode 0b00000000_00000000_00000000_00000111 = .ok .decode := by decide

theorem test_decode_reqchk : decode 0b00000000_00000000_00000000_00001000 = .ok .reqchk := by decide

theorem test_decode_encode : decode 0b00000000_00000000_00000000_00001001 = .ok .encode := by decide

/-- CMD-2, CMD-3, CMD-11 with RSV first. -/
theorem test_decode_unknown_opcode : decode 0x0000000A = .error .unknownOpcode ∧
    decode 0x000000FF = .error .unknownOpcode ∧ decode 0xFFFFFFFF = .error .reservedBits := by decide

/-- CMD-4, CMD-8, CMD-9. -/
theorem test_decode_reserved_bits : decode 0x01000000 = .error .reservedBits ∧
    decode 0x80000009 = .error .reservedBits ∧ decode 0x01000002 = .error .reservedBits := by decide

/-- CMD-5, CMD-6, CMD-7. -/
theorem test_decode_stray_argument : decode 0x00000100 = .error .strayArgument ∧
    decode 0x00010001 = .error .strayArgument ∧ decode 0x00000104 = .error .strayArgument := by decide

/-- The table's numbering: one 32-bit word, bit 0 least significant. -/
theorem test_decodeTableWord : decodeTableWord 32 0x000F0002 = some (.b2v 0 15) ∧
    decodeTableWord 8 0x09 = some .encode ∧ decodeTableWord 32 0x0A = none := by decide

/-! ## One command -/

/-- CMD-1. -/
theorem test_nop : leaves (step (blank.withFetchWord 32 0)) (fun t => t.status == 0x00FF0002) = true := by
  decide +kernel

/-- TM-3: one above the upper bound. -/
theorem test_inrange_rejects : leaves (exec .inrange { blank with epsNum := 750, opa := 345, opb := 320 })
    (fun t => t.lo == 296 && t.hi == 344 && t.result == 0 && t.status == 0x01FF0002) = true := by decide +kernel

/-- TM-38: HI saturates. -/
theorem test_inrange_saturates :
    leaves (exec .inrange { blank with epsNum := 750, opa := 0xFFFFFFFF, opb := 0xFFFFFFFF })
      (fun t => t.lo == 0xECCCCCCB && t.hi == 0xFFFFFFFF && t.result == 1) = true := by decide +kernel

/-- BOC-B7 with FIELD_ORDER = 1: the window straddles BVW[0] and BVW[1]. -/
theorem test_b2v_straddles : leaves (exec (.b2v 30 33) { blank with ctrl := 2, bv := 0x8000000100000064 })
    (fun t => t.result == 2 && t.status == 0x02FF0002) = true := by decide +kernel

/-- BOC-B13: 33 bits. -/
theorem test_b2v_too_wide : leaves (exec (.b2v 0 32) { blank with bv := 0x64 })
    (fun t => t.result == 0 && t.status == 0x02FF2300) = true := by decide +kernel

/-- BOC-V10 with FIELD_ORDER = 1. -/
theorem test_v2b_reversed : leaves (exec .v2b { blank with ctrl := 2, opa := 0x12345678 })
    (fun t => t.result == 0x03CD4589 && t.result2 == 29 && t.status == 0x03FF0002) = true := by decide +kernel

/-- BOC-V1: 0 has one bit. -/
theorem test_v2b_zero : leaves (exec .v2b blank) (fun t => t.result == 0 && t.result2 == 1) = true := by
  decide +kernel

/-- PTF-V12: the header is tested before the footer. -/
theorem test_validate_header_first :
    leaves (exec .validate (received ((exampleTrain.set 0 0).set 67 0))) (fun t => t.status == 0x04FF0200) = true := by
  decide +kernel

/-- PTF-V15 and PTF-V16: bit 2 is a 1; an ambiguous pair is not high. -/
theorem test_validate_guard :
    leaves (exec .validate { received exampleTrain with guardLen := 3 }) (fun t => t.status == 0x04FF0400) = true ∧
      leaves (exec .validate { received (withPair exampleTrain 2 600 600) with guardLen := 3 })
        (fun t => t.status == 0x04FF0002) = true := by
  decide +kernel

/-- PTF-D1. -/
theorem test_demod_lenient :
    leaves (exec .demod { received (withPair (withPair (trainOf 0 32) 0 1000 300) 1 600 600) with bv := 2 ^ 256 - 1 })
      (fun t => t.bv == 1 && t.ambPos == 1 && t.status == 0x05FF0006) = true := by decide +kernel

/-- PTF-D2. -/
theorem test_demod_strict :
    leaves (exec .demod { received (withPair (withPair (trainOf 0 32) 0 1000 300) 1 600 600) with ctrl := 1 })
      (fun t => t.bv == 1 && t.ambPos == 1 && t.status == 0x05FF1204) = true := by decide +kernel

/-- BLC-2: the example message with FIELD_ORDER = 1. -/
theorem test_bvdecode_fields : leaves (exec .bvdecode { efp with ctrl := 2, bv := 0x5CCA2600 })
    (fun t => t.msg == #v[100, 5, 1, 10, 0, 0, 0, 0] && t.msgStat == 0x80000007 && t.status == 0x06FF0002) = true := by
  decide +kernel

/-- PTAB-11: the earlier of two equal entries. -/
theorem test_bvdecode_patterns : leaves (exec .bvdecode { epp with bv := 0x122, pt := epp.pt.set 8 0x122 })
    (fun t => t.msgCmd == 0 && t.msgSidx == 1 && t.msgStat == 0xC0000000 && t.status == 0x06FF0002) = true := by
  decide +kernel

/-- DEC-6 and DEC-7: an ambiguous pair reads 0; with AMB_STRICT = 1 it then ends the decode. -/
theorem test_decode_ambiguous :
    leaves (exec .decode (received (withPair exampleTrain 5 600 600)))
      (fun t => t.bv == 0xA3350044 && t.ambPos == 5 && t.msg == #v[68, 5, 1, 10, 0, 0, 0, 0] &&
        t.msgStat == 0x80000007 && t.status == 0x07FF0006) = true ∧
    leaves (exec .decode { received (withPair exampleTrain 5 600 600) with ctrl := 1 })
      (fun t => t.bv == 0xA3350044 && t.ambPos == 5 && t.msg == #v[0, 0, 0, 0, 0, 0, 0, 0] &&
        t.msgStat == 0x1200 && t.status == 0x07FF1204) = true := by decide +kernel

/-- DEC-9: a sync failure is reported with AMB = 1. -/
theorem test_decode_sync_error : leaves (exec .decode (received (withPair exampleTrain 29 600 600)))
    (fun t => t.bv == 0x83350064 && t.ambPos == 0x1D && t.msgStat == 0x1000 && t.status == 0x07031004) = true := by
  decide +kernel

/-- REQ-14: conflict rule 0 names field 1. -/
theorem test_reqchk_conflict :
    leaves (exec .reqchk { requested 7 100 5 0 with cf := #v[⟨0xC0000201, 0⟩, ⟨0, 0⟩, ⟨0, 0⟩, ⟨0, 0⟩] })
      (fun t => t.status == 0x08012200) = true := by decide +kernel

/-- PCHK-5 and PCHK-6. -/
theorem test_reqchk_patterns :
    leaves (exec .reqchk { epp with reqCmd := 1, reqSidx := 2 }) (fun t => t.status == 0x08012100) = true ∧
      leaves (exec .reqchk { epp with reqCmd := 3, reqSidx := 2 }) (fun t => t.status == 0x08002100) = true := by
  decide +kernel

/-- REQ-1: PULSE is the example train. -/
theorem test_encode_example : leaves (exec .encode (requested 7 100 5 1))
    (fun t => t.pulse.toList.take 68 == exampleTrain && t.pulseCount == 68 && t.bv == 0xA3350064 &&
      t.msg == #v[100, 5, 1, 10, 0, 0, 0, 0] && t.msgStat == 0x80000007 && t.status == 0x09FF0002) = true := by
  decide +kernel

/-- REQ-19: the echo fails the guard; BV is kept. -/
theorem test_encode_guard : leaves (exec .encode { requested 7 100 5 1 with guardLen := 3, bv := 0x11111111 })
    (fun t => t.pulseCount == 68 && t.bv == 0x11111111 && t.msgStat == 0x400 && t.status == 0x09FF0002) = true := by
  decide +kernel

/-! ## The port and reset -/

/-- REG-1, REG-2, REG-5, REG-7, REG-8, REG-13, REG-14, REG-15, REG-16. -/
theorem test_register_fields :
    readAfterWrite blank .id .id 0 = some 0x50544343 ∧ readAfterWrite blank .status .status 0xFFFFFFFF = some 0 ∧
      readAfterWrite blank .ambPos .ambPos 0 = some 0xFFFFFFFF ∧
      readAfterWrite blank .ctrl .ctrl 0x7FFFFFFF = some 7 ∧
      readAfterWrite blank .pulseCount .pulseCount 0xFFFFFFFF = some 0x3FF ∧
      readAfterWrite blank .ptDim .ptDim 0xFFFFFFFF = some 0x70F ∧
      readAfterWrite blank (.fdCfg 0) (.fdCfg 0) 0xFFFFFFFF = some 0x7FFFF ∧
      readAfterWrite blank (.smSem 0) (.smSem 0) 0xFFFFFFFF = some 0x8000FFFF ∧
      readAfterWrite blank (.cfCfg 0) (.cfCfg 0) 0xFFFFFFFF = some 0xC0000707 := by decide +kernel

/-- CMD-6: an illegal word is stored in CMD and reported. -/
theorem test_illegal_word : leaves (step (blank.withFetchWord 32 0x00010001))
    (fun t => t.status == 0x01FF3000 && t.cmd == 0x00010001 && t.result == 0) = true := by decide +kernel

/-- The start of the soft-reset vectors. -/
def usedState : State :=
  { efp with
    pulse := pulses [1234], pt := blank.pt.set 0 0x5A5A5A5A, bv := 0xDEADBEEF, opa := 9, status := 0x00FF0002 }

/-- RST-1, RST-2, RST-4, RST-6 to RST-9: a soft reset keeps PULSE and PT. -/
theorem test_soft_reset :
    leaves (step (offered usedState (.write 0x004 .word 0x80000007)))
      (fun t => t.ctrl == 0 && t.status == 0 && t.trainLen == 0 && t.ambPos == 0xFFFFFFFF && t.bv == 0 &&
        t.pulse[0] == 1234 && t.pt[0] == 0x5A5A5A5A) = true := by decide +kernel

/-- R66, I2: the three refusals of the port. -/
theorem test_refusals :
    step (offered blank (.read 0x002 .word)) = .refused .misalignedAccess ∧
      step (offered blank (.write 0x008 .half 0)) = .refused .subWordAccess ∧
      step (offered { blank with resetAsserted := true } (.read 0x000 .word)) = .refused .accessDuringReset :=
  ⟨rfl, rfl, rfl⟩

/-! ## Witnesses: encoding and the port -/

theorem witness_EncodedCommandDecodesBack :
    WellFormed (.b2v 255 0) ∧ WellFormed (.b2v 0 255) ∧ WellFormed .encode := by decide

theorem witness_LegalWordIsItsEncoding :
    decode 0x00FFFF02 = .ok (.b2v 255 255) ∧ decode 0x00000009 = .ok .encode := by decide

/-- The three ways a word is illegal, each just outside its boundary, and a legal word just inside. -/
theorem witness_IllegalWordChangesOnlyStatus :
    (∀ w : Word, (offered blank (commandInput w)).pending = .write 0x008 .word w :: []) ∧
      blank.resetAsserted = false ∧
      10 ≤ (0x0000000A : Word).toNat % 2 ^ 8 ∧ (0x01000000 : Word).toNat / 2 ^ 24 ≠ 0 ∧
      ((0x00000109 : Word).toNat % 2 ^ 8 ≠ 2 ∧ (0x00000109 : Word).toNat / 2 ^ 8 % 2 ^ 16 ≠ 0) ∧
      ¬(10 ≤ (0x00FFFF02 : Word).toNat % 2 ^ 8 ∨ (0x00FFFF02 : Word).toNat / 2 ^ 24 ≠ 0 ∨
        ((0x00FFFF02 : Word).toNat % 2 ^ 8 ≠ 2 ∧ (0x00FFFF02 : Word).toNat / 2 ^ 8 % 2 ^ 16 ≠ 0)) :=
  ⟨fun _ => rfl, rfl, by decide, by decide, by decide, by decide⟩

theorem witness_StepRunsDecodedCommand :
    (offered blank (commandInput 0x00FFFF02)).pending = .write 0x008 .word 0x00FFFF02 :: [] ∧
      (offered blank (commandInput 0x00FFFF02)).resetAsserted = false ∧
      decode 0x00FFFF02 = .ok (.b2v 255 255) ∧ WellFormed (.b2v 255 255) :=
  ⟨rfl, rfl, by decide, by decide⟩

/-- The last register of the window. -/
theorem witness_ReadReturnsTheRegister :
    (offered blank (.read 0xFFC .word)).pending = .read (BitVec.ofNat 12 (Reg.pulse 511).offset) .word :: [] ∧
      (offered blank (.read 0xFFC .word)).resetAsserted = false := ⟨rfl, rfl⟩

/-- Unmapped offsets next to mapped ones. -/
theorem witness_UnmappedOffsetsReadZeroAndIgnoreWrites :
    (offered blank (.read 0x038 .word)).resetAsserted = false ∧
      (∀ r : Reg, r.offset ≠ (0x038 : BitVec 12).toNat) ∧ (∀ r : Reg, r.offset ≠ (0x3FC : BitVec 12).toNat) ∧
      (0x038 : BitVec 12).toNat % 4 = 0 ∧ (0x3FC : BitVec 12).toNat % 4 = 0 ∧
      (offered blank (.read 0x038 .word)).pending = .read 0x038 .word :: [] ∧
      (offered blank (.write 0x3FC .word 1)).pending = .write 0x3FC .word 1 :: [] :=
  ⟨rfl, regAt_eq_none (by decide), regAt_eq_none (by decide), by decide, by decide, rfl, rfl⟩

theorem witness_ReadOnlyRegistersIgnoreWrites :
    (offered blank (.write 0x23C .word 5)).pending = .write (BitVec.ofNat 12 (Reg.msg 7).offset) .word 5 :: [] ∧
      (offered blank (.write 0x23C .word 5)).resetAsserted = false := ⟨rfl, rfl⟩

/-- CTRL with every bit but SRST set, and the last pulse. -/
theorem witness_WriteStoresTheFieldsOnly :
    ((Reg.ctrl).writable = true ∧ Reg.ctrl ≠ .cmd ∧ (0x7FFFFFFF : Word).getLsbD 31 = false ∧
      (offered blank (.write 0x004 .word 0x7FFFFFFF)).pending =
        .write (BitVec.ofNat 12 (Reg.ctrl).offset) .word 0x7FFFFFFF :: []) ∧
    ((Reg.pulse 511).writable = true ∧ Reg.pulse 511 ≠ .cmd ∧ Reg.pulse 511 ≠ .ctrl ∧
      (offered blank (.write 0xFFC .word 5)).pending =
        .write (BitVec.ofNat 12 (Reg.pulse 511).offset) .word 5 :: []) ∧
    blank.resetAsserted = false :=
  ⟨⟨rfl, by decide, by decide, rfl⟩, ⟨rfl, by decide, by decide, rfl⟩, rfl⟩

theorem witness_LaterInputsAreNotSeen :
    (offered blank (commandInput 0)).pending = [commandInput 0] ∧
      ∃ t, step (offered blank (commandInput 0)) = .next t :=
  ⟨rfl, (exists_of_leaves (p := fun _ => true) (by decide +kernel)).imp fun _ h => h.1⟩

theorem witness_IdleMachineHoldsItsState : blank.pending = [] := rfl

/-! ## Witnesses: reset and what every step keeps -/

theorem witness_CommandsAfterReset :
    State.reset = State.reset ∧ (∃ u, softReset efp = softReset u) ∧ (∃ u, powerOnReset efp = powerOnReset u) ∧
      (224 ≤ 255 ∧ 255 - 224 < 32) := ⟨rfl, ⟨_, rfl⟩, ⟨_, rfl⟩, by decide⟩

theorem witness_SoftResetKeepsPatternsAndPulses :
    (∀ v : Word, (offered usedState (.write 0x004 .word v)).pending = .write 0x004 .word v :: []) ∧
      usedState.resetAsserted = false ∧ (0x80000007 : Word).getLsbD 31 = true ∧
      (0x7FFFFFFF : Word).getLsbD 31 = false := ⟨fun _ => rfl, rfl, by decide, by decide⟩

theorem witness_ReleasedResetInputResetsTheRegisters :
    (offered { usedState with resetAsserted := true } (.resetLine false)).pending = .resetLine false :: [] ∧
      (offered { usedState with resetAsserted := true } (.resetLine false)).resetAsserted = true := ⟨rfl, rfl⟩

/-- `blank` with one command to run. -/
theorem witness_StepKeepsReservedBitsClear :
    ReservedClear (offered blank (commandInput 0x0A)) ∧ ∃ t, step (offered blank (commandInput 0x0A)) = .next t := by
  refine ⟨fun r => ?_, (exists_of_leaves (p := fun _ => true) (by decide +kernel)).imp fun _ h => h.1⟩
  cases r with
  | pulse p | ptw e w => simp [Reg.fieldMask]
  | fdCfg k | smSem k | cfCfg k => revert k; decide +kernel
  | _ => simp [Reg.fieldMask] <;> decide +kernel

theorem witness_StepKeepsReportsLegal :
    ReportsLegal (offered blank (commandInput 0x0A)) ∧ ∃ t, step (offered blank (commandInput 0x0A)) = .next t :=
  ⟨⟨.inl rfl, .inl ⟨rfl, rfl, rfl, .inl rfl⟩, .inl rfl⟩,
    (exists_of_leaves (p := fun _ => true) (by decide +kernel)).imp fun _ h => h.1⟩

/-- A command, a state it runs on, and how it ends: one for each condition of the write sets on how a command ended. -/
def endings : List (Instr × State × (State → Bool)) :=
  [(.b2v 1 0, efp, fun t => !t.status.getLsbD 1),
    (.demod, blank, fun t => errCode t.status == 0x31),
    (.demod, efp, fun t => errCode t.status == 0x01),
    (.bvdecode, efp, fun t => !t.status.getLsbD 1 && t.mode == .fields),
    (.bvdecode, { epp with bv := 0x111 }, fun t => t.status.getLsbD 1 && t.mode == .patterns),
    (.decode, { received exampleTrain with guardLen := 3 }, fun t => errCode t.status == 0x04),
    (.decode, { received exampleTrain with pulseCount := 67 }, fun t => errCode t.status == 0x01),
    (.encode, blank, fun t => !t.status.getLsbD 1),
    (.encode, { requested 7 100 5 1 with guardLen := 3 }, fun t => t.status.getLsbD 1 && t.msgStat == 0x400)]

/-- Every command ends in a next state, and each condition on how it ended is met by some state. -/
theorem witness_CommandsWriteOnlyTheirRows :
    (∀ i, ∃ t, exec i efp = .next t) ∧ (∀ e ∈ endings, leaves (exec e.1 e.2.1) e.2.2 = true) ∧
      efp.trainLength ≤ 511 ∧ decode 0x0A = .error .unknownOpcode ∧ ∃ t, runCommand 0x0A efp = .next t :=
  ⟨fun i => exec_next i efp, by decide +kernel, by decide +kernel, by decide, runCommand_next _ _⟩

/-! ## Witnesses: matcher and codec -/

theorem witness_InrangeReportsBoundsAndMatch :
    ({ blank with opa := 5, opb := 5 } : State).opa = ({ blank with opa := 5, opb := 5 } : State).opb ∧
      blank.opb = 0 ∧ blank.eps = 0 ∧ 10000 ≤ ({ blank with epsNum := 10000 } : State).eps := by
  decide +kernel

theorem witness_MatcherHasItsFiveProperties :
    (345 : Word).toNat = (320 : Word).toNat * (10000 + 750) / 10000 + 1 ∧
      750 ≤ 10000 ∧ (295 : Word).toNat + 1 = (320 : Word).toNat * (10000 - 750) / 10000 ∧
      matchesRef 0 5 5 = true ∧ matchesRef 750 0 0 = true := by
  decide +kernel

theorem witness_B2vReadsTheWindow :
    (224 ≤ 255 ∧ 255 - 224 + 1 ≤ 32) ∧ blank.ctrl.getLsbD 1 = false ∧
      ({ blank with ctrl := 2 } : State).ctrl.getLsbD 1 = true ∧ 9 < 10 ∧ 32 < 32 - 0 + 1 := by
  decide +kernel

theorem witness_V2bWritesTheMinimalSequence :
    blank.opa = 0 ∧ ({ blank with opa := 0x80000000 } : State).opa ≠ 0 ∧ blank.ctrl.getLsbD 1 = false ∧
      ({ blank with ctrl := 2 } : State).ctrl.getLsbD 1 = true := by
  decide +kernel

theorem witness_SequenceReadsBackAsItsValue :
    (∀ i, i < minLen 100 → (0x64 : BitVec 256).getLsbD i = seqBit .lsbAtStart 100 i) ∧
      (∀ i, i < minLen 100 → (0x13 : BitVec 256).getLsbD i = seqBit .lsbAtEnd 100 i) := by
  decide +kernel

/-- The hypotheses of a placement on a cleared canvas. -/
abbrev Fits (v : Word) (first last : Nat) : Prop :=
  first ≤ last ∧ last < 256 ∧ last - first + 1 ≤ 32 ∧ minLen v ≤ last - first + 1 ∧
    ∀ j, first ≤ j → j ≤ last → (0 : BitVec 256).getLsbD j = false

/-- Values as wide as their window, at the high end of the store and at position 0 (where `last + 1 = minLen v`), and a
shorter one, which leaves positions of its window for the last clause of each order. -/
theorem witness_PlacedValueReadsBack :
    Fits 0xFFFFFFFF 224 255 ∧ (Fits 0x8000 0 15 ∧ minLen 0x8000 = 15 + 1) ∧ (Fits 1 0 0 ∧ minLen 1 = 0 + 1) ∧
      Fits 100 0 15 ∧ 0 + minLen 100 ≤ 15 := by
  have fits : ∀ v first last, first ≤ last → last < 256 → last - first + 1 ≤ 32 → minLen v ≤ last - first + 1 →
      Fits v first last := fun _ _ _ h1 h2 h3 h4 => ⟨h1, h2, h3, h4, by simp⟩
  refine ⟨fits _ _ _ ?_ ?_ ?_ ?_, ⟨fits _ _ _ ?_ ?_ ?_ ?_, ?_⟩, ⟨fits _ _ _ ?_ ?_ ?_ ?_, ?_⟩,
    fits _ _ _ ?_ ?_ ?_ ?_, ?_⟩
  all_goals decide +kernel

/-- Both position clauses at position 0: 0x8000 fills [0, 15], its highest bit at 15 with FIELD_ORDER = 0 and at 0 with
FIELD_ORDER = 1 (R105). -/
theorem test_place_full_window :
    place .lsbAtStart 0x8000 0 15 0 = 0x8000 ∧ place .lsbAtEnd 0x8000 0 15 0 = 0x0001 := by decide +kernel

/-! ## Witnesses: framer -/

/-- The example train behind a guard of `n` pairs. -/
def guarded (n : Word) : State := { received exampleTrain with guardLen := n }

/-- EFP with field 3 ending at bit 32 (BLC-13). -/
def wideLayout : State := { efp with fd := efp.fd.set 3 ⟨0x0002201C, 10, 0, 0⟩ }

/-- EPP with nine commands (PTAB-12). -/
def wideTable : State := { epp with ptDim := 0x209 }

/-- PTF-V6: the header's first duration is too long. -/
def headerOff : State := received (exampleTrain.set 0 345)

/-- PTF-V10: the footer's second duration is too long. -/
def footerOff : State := received (exampleTrain.set 67 11697)

/-- EFP with equal waveforms. -/
def inseparable : State := { received exampleTrain with highD0 := 320, highD1 := 960 }

/-- PTF-D5: only the last pair is ambiguous. -/
def lastAmbiguous : State := received (withPair (trainOf 0 32) 31 345 960)

/-- The largest body (PTF-C7), a body of no bits (PTF-C8), and the reset geometry. -/
theorem witness_IllegalGeometryIsConfigError :
    GeometryLegal { efp with trainLen := 512, hdrLen := 1, ftrLen := 1 } ∧ GeometryLegal { efp with trainLen := 4 } ∧
      ¬GeometryLegal blank ∧ ¬GeometryLegal { efp with guardLen := 33 } := by
  decide +kernel

set_option synthInstance.maxSize 1000 in
/-- BLC-13 and BLC-14: field 3; PTAB-12 and PTAB-13. -/
theorem witness_IllegalLayoutNamesItsFirstField :
    GeometryLegal efp ∧
      (GeometryLegal wideLayout ∧ wideLayout.mode = .fields ∧
        ¬WindowLegal (bodyBits wideLayout) (wideLayout.desc 3) ∧
        ∀ j, j < 3 → WindowLegal (bodyBits wideLayout) (wideLayout.desc j)) ∧
      (GeometryLegal wideTable ∧ wideTable.mode = .patterns ∧ ¬TableLegal wideTable) ∧
      ¬TableLegal { epp with ptDim := 0x503 } ∧ ModeLegal efp ∧ ModeLegal { epp with ptDim := 0x200 } := by
  decide +kernel

set_option synthInstance.maxSize 1000 in
/-- PTF-V2, V6, V10, V15, V1, and the reset state. -/
theorem witness_ValidateReportsTheFirstFailedCheck :
    ¬GeometryLegal blank ∧ GeometryLegal efp ∧ efp.count ≠ efp.trainLength ∧
      (GeometryLegal headerOff ∧ headerOff.count = headerOff.trainLength ∧ ¬HeaderInWindow headerOff) ∧
      (GeometryLegal footerOff ∧ footerOff.count = footerOff.trainLength ∧ HeaderInWindow footerOff ∧
        ¬FooterInWindow footerOff) ∧
      (GeometryLegal (guarded 3) ∧ (guarded 3).count = (guarded 3).trainLength ∧ HeaderInWindow (guarded 3) ∧
        FooterInWindow (guarded 3) ∧ ¬GuardClear (guarded 3)) ∧
      (GeometryLegal (guarded 2) ∧ (guarded 2).count = (guarded 2).trainLength ∧ HeaderInWindow (guarded 2) ∧
        FooterInWindow (guarded 2) ∧ GuardClear (guarded 2)) := by
  decide +kernel

/-- Two trains that differ in every pair behind the guard. -/
theorem witness_ValidateReadsNoPayload :
    (∀ p, p < (guarded 2).trainLength →
      (p < (guarded 2).headerLength ∨ (guarded 2).trainLength - (guarded 2).footerLength ≤ p ∨
        ((guarded 2).headerLength ≤ p ∧ p < (guarded 2).headerLength + 2 * (guarded 2).guardLength)) →
      (pulses (trainOf 0x5CCAFF98 32))[p]? = (guarded 2).pulse[p]?) ∧
    (pulses (trainOf 0x5CCAFF98 32))[6]? ≠ (guarded 2).pulse[6]? := by
  decide +kernel

/-- A HIGH pair, a LOW pair, equal waveforms, and the two mixed pairs of R123. -/
theorem witness_PairsClassifyAsTheRuleLists :
    ((guarded 0).pulseAt ((guarded 0).headerLength + 2 * 2) = (guarded 0).highD0 ∧
      (guarded 0).pulseAt ((guarded 0).headerLength + 2 * 2 + 1) = (guarded 0).highD1) ∧
    ((guarded 0).pulseAt ((guarded 0).headerLength + 2 * 0) = (guarded 0).lowD0 ∧
      (guarded 0).pulseAt ((guarded 0).headerLength + 2 * 0 + 1) = (guarded 0).lowD1) ∧
    (inseparable.lowD0 = inseparable.highD0 ∧ inseparable.lowD1 = inseparable.highD1 ∧
      PairMatches inseparable 0 inseparable.lowD0 inseparable.lowD1) ∧
    ((received (withPair exampleTrain 0 960 960)).pulseAt 2 = 960 ∧
      (received (withPair exampleTrain 0 960 960)).pulseAt 3 = 960 ∧
      Accepts efp.eps 960 efp.highD0 ∧ ¬Accepts efp.eps 960 efp.lowD0 ∧
      Accepts efp.eps 960 efp.lowD1 ∧ ¬Accepts efp.eps 960 efp.highD1) ∧
    ((received (withPair exampleTrain 0 320 320)).pulseAt 2 = 320 ∧
      (received (withPair exampleTrain 0 320 320)).pulseAt 3 = 320 ∧
      Accepts efp.eps 320 efp.lowD0 ∧ ¬Accepts efp.eps 320 efp.highD0 ∧
      Accepts efp.eps 320 efp.highD1 ∧ ¬Accepts efp.eps 320 efp.lowD1) := by
  decide +kernel

set_option synthInstance.maxSize 1000 in
/-- No pair ambiguous, and the last pair the only ambiguous one (PTF-D5). -/
theorem witness_DemodClassifiesTheBody :
    ¬GeometryLegal blank ∧ GeometryLegal efp ∧ efp.count ≠ efp.trainLength ∧
      (GeometryLegal (guarded 0) ∧ (guarded 0).count = (guarded 0).trainLength ∧ ¬SomeAmbiguous (guarded 0)) ∧
      (GeometryLegal lastAmbiguous ∧ lastAmbiguous.count = lastAmbiguous.trainLength ∧ 31 < bodyBits lastAmbiguous ∧
        PairAmbiguous lastAmbiguous 31 ∧ ∀ j, j < 31 → ¬PairAmbiguous lastAmbiguous j) := by
  decide +kernel

theorem witness_SynthesisedTrainDemodulatesToItsCanvas :
    GeometryLegal efp ∧ 31 < bodyBits efp ∧ (0xA3350064 : BitVec 256).getLsbD 31 = true ∧
      (0xA3350064 : BitVec 256).getLsbD 0 = false ∧ Separable efp ∧
      GeometryLegal inseparable ∧ ¬Separable inseparable := by
  decide +kernel

/-! ## Witnesses: field layout -/

/-- EFP with a vector in BV. -/
def holding (v : BitVec 256) : State := { efp with bv := v }

/-- DEC-8: the train of a vector whose sync field is wrong. -/
def syncOff : State := received (withPair exampleTrain 29 320 960)

/-- REQ-4: field 0 is required and absent. -/
def idMissing : State := { requested 6 0 5 1 with fd := efp.fd.set 0 ⟨0x00050F00, 0, 0, 0xFFFF⟩ }

/-- REQ-14: conflict rule 0 fires. -/
def inConflict : State := { requested 7 100 5 0 with cf := #v[⟨0xC0000201, 0⟩, ⟨0, 0⟩, ⟨0, 0⟩, ⟨0, 0⟩] }

/-- Entry 1 of EFP's map, entry 0 of a map that holds 17 twice, and a word and a code no entry holds. -/
theorem witness_StateMapTakesTheLowestEntry :
    (efp.sm[1].sem.getLsbD 31 = true ∧ efp.sm[1].raw = 17 ∧
      (∀ i : Fin 8, i < 1 → ¬(efp.sm[i].sem.getLsbD 31 = true ∧ efp.sm[i].raw = 17))) ∧
    (∀ j : Fin 8, ¬(efp.sm[j].sem.getLsbD 31 = true ∧ efp.sm[j].raw = 52)) ∧
    (efp.sm[1].sem.toNat % 2 ^ 16 = (0 : Word).toNat ∧
      (∀ i : Fin 8, i < 1 → ¬(efp.sm[i].sem.getLsbD 31 = true ∧ efp.sm[i].sem.toNat % 2 ^ 16 = (0 : Word).toNat))) ∧
    (∀ j : Fin 8, ¬(efp.sm[j].sem.getLsbD 31 = true ∧ efp.sm[j].sem.toNat % 2 ^ 16 = (2 : Word).toNat)) := by
  decide +kernel

theorem witness_BvdecodeWritesTheFieldMessage :
    GeometryLegal (holding 0xA3350064) ∧ (holding 0xA3350064).mode = .fields ∧ LayoutLegal (holding 0xA3350064) ∧
      ∀ k, FieldDecodes (holding 0xA3350064) k := by
  decide +kernel

set_option synthInstance.maxSize 1000 in
/-- BLC-6 and DEC-8: field 3 is the first to fail. -/
theorem witness_FirstFailingFieldEndsTheDecode :
    (GeometryLegal (holding 0x83350064) ∧ (holding 0x83350064).mode = .fields ∧ LayoutLegal (holding 0x83350064) ∧
      (∀ j, j < 3 → FieldDecodes (holding 0x83350064) j) ∧ ¬FieldDecodes (holding 0x83350064) 3) ∧
    (GeometryLegal syncOff ∧ syncOff.mode = .fields ∧ LayoutLegal syncOff ∧ TrainFramed syncOff ∧
      ¬(SomeAmbiguous syncOff ∧ syncOff.ctrl.getLsbD 0 = true) ∧
      (∀ j, j < 3 → FieldDecodes (demodBody syncOff) j) ∧ ¬FieldDecodes (demodBody syncOff) 3) := by
  decide +kernel

set_option synthInstance.maxSize 1000 in
/-- REQ-4, REQ-12, REQ-14 and REQ-1. -/
theorem witness_ReqchkReportsTheFirstRequestError :
    (GeometryLegal idMissing ∧ idMissing.mode = .fields ∧ LayoutLegal idMissing ∧ Missing idMissing 0 ∧
        ∀ j : Fin 8, j < 0 → ¬Missing idMissing j) ∧
      (GeometryLegal (requested 7 100 5 2) ∧ LayoutLegal (requested 7 100 5 2) ∧
        (∀ j, ¬Missing (requested 7 100 5 2) j) ∧ ValueOutOfRange (requested 7 100 5 2) 2 ∧
        ∀ j, j < 2 → ¬ValueOutOfRange (requested 7 100 5 2) j) ∧
      (GeometryLegal inConflict ∧ LayoutLegal inConflict ∧ (∀ j, ¬Missing inConflict j) ∧
        (∀ j, ¬ValueOutOfRange inConflict j) ∧ Conflicts inConflict 0 ∧
        ∀ d : Fin 4, d < 0 → ¬Conflicts inConflict d) ∧
      RequestLegal (requested 7 100 5 1) := by
  decide +kernel

/-! ## Witnesses: pattern table -/

/-- EPP with a vector in BV. -/
def holdingPattern (v : BitVec 256) : State := { epp with bv := v }

/-- EPP with a request. -/
def requestedPattern (c st : Word) : State := { epp with reqCmd := c, reqSidx := st }

/-- PTAB-6: the last entry in use, equal to no earlier one; and PTAB-7: no entry. -/
theorem witness_BvdecodeTakesTheFirstMatchingPattern :
    (GeometryLegal (holdingPattern 0x322) ∧ (holdingPattern 0x322).mode = .patterns ∧
      TableLegal (holdingPattern 0x322) ∧ 2 < (holdingPattern 0x322).ncmd ∧ 1 < (holdingPattern 0x322).nstate ∧
      EntryEquals (holdingPattern 0x322) 0x322 2 1 ∧
      ∀ c', c' < (holdingPattern 0x322).ncmd → ∀ st', st' < (holdingPattern 0x322).nstate →
        ScannedBefore c' st' 2 1 → ¬EntryEquals (holdingPattern 0x322) 0x322 c' st') ∧
    (∀ c, c < (holdingPattern 0x223).ncmd → ∀ st, st < (holdingPattern 0x223).nstate →
      ¬EntryEquals (holdingPattern 0x223) 0x223 c st) := by
  decide +kernel

set_option synthInstance.maxSize 1000 in
theorem witness_DistinctPatternsDecodeExactly :
    GeometryLegal epp ∧ epp.mode = .patterns ∧ TableLegal epp ∧
      (∀ c, c < epp.ncmd → ∀ st, st < epp.nstate → ∀ c', c' < epp.ncmd → ∀ st', st' < epp.nstate →
        ¬(c = c' ∧ st = st') → ¬EntryEquals epp (epp.patternAt (4 * c + st)) c' st') ∧
      EntryEquals (holdingPattern 0x322) 0x322 2 1 ∧
      (∀ c, c < epp.ncmd → ∀ st, st < epp.nstate →
        ∃ i, i < bodyBits epp ∧ (epp.patternAt (4 * c + st)).getLsbD i ≠ (0x223 : BitVec 256).getLsbD i) := by
  decide +kernel

/-- PCHK-4, PCHK-5 and PCHK-3. -/
theorem witness_ReqchkChecksThePatternIndices :
    GeometryLegal epp ∧ epp.mode = .patterns ∧ TableLegal epp ∧
      epp.ncmd ≤ (requestedPattern 3 0).reqCmd.toNat ∧
      ((requestedPattern 1 2).reqCmd.toNat < epp.ncmd ∧ epp.nstate ≤ (requestedPattern 1 2).reqSidx.toNat) ∧
      ((requestedPattern 2 1).reqCmd.toNat < epp.ncmd ∧ (requestedPattern 2 1).reqSidx.toNat < epp.nstate) := by
  decide +kernel

/-! ## Witnesses: entry points -/

/-- EPP with the train of entry (1, 1) in PULSE. -/
def receivedPattern : State := { epp with pulse := pulses (trainOf 0x222 12), pulseCount := 28 }

/-- DEC-6: one pair is ambiguous. -/
def oneAmbiguous : State := received (withPair exampleTrain 5 600 600)

/-- DEC-7: the same with AMB_STRICT = 1. -/
def strictAmbiguous : State := { oneAmbiguous with ctrl := 1 }

/-- EPP with the train of a vector that is in no entry. -/
def receivedNoPattern : State := { epp with pulse := pulses (trainOf 0x223 12), pulseCount := 28 }

set_option synthInstance.maxSize 1000 in
/-- DEC-7 (strict), DEC-6 (a pair ambiguous), DEC-1 (none), a pattern train, and a train in no entry. -/
theorem witness_DecodeProducesTheMessageOfTheTrain :
    (GeometryLegal strictAmbiguous ∧ ModeLegal strictAmbiguous ∧ TrainFramed strictAmbiguous ∧
      strictAmbiguous.ctrl.getLsbD 0 = true ∧ 5 < bodyBits strictAmbiguous ∧ PairAmbiguous strictAmbiguous 5 ∧
      ∀ j, j < 5 → ¬PairAmbiguous strictAmbiguous j) ∧
    (GeometryLegal oneAmbiguous ∧ ModeLegal oneAmbiguous ∧ TrainFramed oneAmbiguous ∧
      ¬(SomeAmbiguous oneAmbiguous ∧ oneAmbiguous.ctrl.getLsbD 0 = true) ∧ oneAmbiguous.mode = .fields ∧
      (∀ k, FieldDecodes (demodBody oneAmbiguous) k) ∧ SomeAmbiguous oneAmbiguous) ∧
    (GeometryLegal (guarded 2) ∧ ModeLegal (guarded 2) ∧ TrainFramed (guarded 2) ∧
      (∀ k, FieldDecodes (demodBody (guarded 2)) k) ∧ ¬SomeAmbiguous (guarded 2)) ∧
    (GeometryLegal receivedPattern ∧ ModeLegal receivedPattern ∧ TrainFramed receivedPattern ∧
      ¬SomeAmbiguous receivedPattern ∧ receivedPattern.mode = .patterns ∧
      1 < receivedPattern.ncmd ∧ 1 < receivedPattern.nstate ∧
      EntryEquals receivedPattern (demodVector receivedPattern) 1 1 ∧
      ∀ c', c' < receivedPattern.ncmd → ∀ st', st' < receivedPattern.nstate → ScannedBefore c' st' 1 1 →
        ¬EntryEquals receivedPattern (demodVector receivedPattern) c' st') ∧
    (GeometryLegal receivedNoPattern ∧ ModeLegal receivedNoPattern ∧ TrainFramed receivedNoPattern ∧
      ¬SomeAmbiguous receivedNoPattern ∧ receivedNoPattern.mode = .patterns ∧
      ∀ c, c < receivedNoPattern.ncmd → ∀ st, st < receivedNoPattern.nstate →
        ¬EntryEquals receivedNoPattern (demodVector receivedNoPattern) c st) := by
  refine ⟨?_, ?_, ?_, ?_, ?_⟩
  all_goals decide +kernel

/-- The state after a command that ends in a next state; `blank` otherwise. -/
def after (i : Instr) (s : State) : State :=
  match exec i s with
  | .next t => t
  | .fault _ => blank
  | .refused _ => blank

/-- A command ends in the state `after` names. -/
theorem exec_after (i : Instr) (s : State) : exec i s = .next (after i s) := by
  obtain ⟨t, ht⟩ := exec_next i s
  rw [after, ht]

/-- DEC-6, where DEMOD succeeds, and DEC-7, where it fails. -/
theorem witness_DecodeIsValidateDemodBvdecode :
    (ModeLegal oneAmbiguous ∧ exec .validate oneAmbiguous = .next (after .validate oneAmbiguous) ∧
      (after .validate oneAmbiguous).status = 0x04FF0002 ∧
      exec .demod oneAmbiguous = .next (after .demod oneAmbiguous) ∧
      (after .demod oneAmbiguous).status.getLsbD 1 = true ∧
      exec .bvdecode (after .demod oneAmbiguous) = .next (after .bvdecode (after .demod oneAmbiguous))) ∧
    (ModeLegal strictAmbiguous ∧ exec .validate strictAmbiguous = .next (after .validate strictAmbiguous) ∧
      (after .validate strictAmbiguous).status = 0x04FF0002 ∧
      exec .demod strictAmbiguous = .next (after .demod strictAmbiguous) ∧
      (after .demod strictAmbiguous).status.getLsbD 1 = false) := by
  refine ⟨⟨?_, exec_after _ _, ?_, exec_after _ _, ?_, exec_after _ _⟩, ?_, exec_after _ _, ?_, exec_after _ _, ?_⟩
  all_goals decide +kernel

theorem witness_DecodeRejectsWhatValidateRejects :
    ModeLegal footerOff ∧ exec .validate footerOff = .next (after .validate footerOff) ∧
      (after .validate footerOff).status.getLsbD 1 = false :=
  ⟨by decide +kernel, exec_after _ _, by decide +kernel⟩

/-- REQ-12: an ENCODE that fails. -/
theorem witness_FailedEncodeChangesOnlyStatus :
    exec .encode (requested 7 100 5 2) = .next (after .encode (requested 7 100 5 2)) ∧
      (after .encode (requested 7 100 5 2)).status.getLsbD 1 = false :=
  ⟨exec_after _ _, by decide +kernel⟩

/-- The example request behind a guard of `n` pairs. -/
def requestedGuarded (n : Word) : State := { requested 7 100 5 1 with guardLen := n }

set_option synthInstance.maxSize 1000 in
/-- The largest guard whose echo passes, REQ-19, whose echo does not, and PCHK-1. -/
theorem witness_EncodeWritesTheTrainOfTheRequest :
    (GeometryLegal (requestedGuarded 2) ∧ ModeLegal (requestedGuarded 2) ∧ RequestPasses (requestedGuarded 2) ∧
      GuardClear (after .encode (requestedGuarded 2))) ∧
    (GeometryLegal (requestedGuarded 3) ∧ ModeLegal (requestedGuarded 3) ∧ RequestPasses (requestedGuarded 3) ∧
      ¬GuardClear (after .encode (requestedGuarded 3))) ∧
    (GeometryLegal (requestedPattern 1 1) ∧ ModeLegal (requestedPattern 1 1) ∧
      RequestPasses (requestedPattern 1 1)) := by
  decide +kernel

theorem witness_DecodeAfterEncodeChangesOnlyStatus :
    exec .encode (requested 7 100 5 1) = .next (after .encode (requested 7 100 5 1)) ∧
      (after .encode (requested 7 100 5 1)).status.getLsbD 1 = true :=
  ⟨exec_after _ _, by decide +kernel⟩

/-- The premises of the field round trip. -/
abbrev RoundTripFields (s : State) : Prop :=
  (GeometryLegal s ∧ s.mode = .fields ∧ LayoutLegal s ∧ Separable s) ∧
    (∀ j k : Fin 8, j ≠ k → (s.desc j).kind ≠ .off → (s.desc k).kind ≠ .off →
      (s.desc j).stop < (s.desc k).start ∨ (s.desc k).stop < (s.desc j).start) ∧
    RequestLegal s ∧
    ∀ k, Supplied s k → (s.desc k).kind = .state →
      (semToRaw s (s.request k)).bind (rawToSem s) = some (s.request k)

/-- Field 0 alone is supplied, and raw 0 is mapped. -/
def onlyId : State := { requested 1 100 0 0 with sm := efp.sm.set 2 ⟨0, 0x80000009⟩ }

set_option synthInstance.maxSize 1000 in
/-- The example request behind a guard it passes and one it fails; the state absent, with raw 0 not mapped, and with
raw 0 mapped. -/
theorem witness_EncodedFieldsDecodeToTheRequest :
    RoundTripFields (requestedGuarded 2) ∧ RoundTripFields (requestedGuarded 3) ∧
      RoundTripFields (requested 3 100 5 0) ∧ RoundTripFields onlyId ∧
      (∃ i, i < (requestedGuarded 3).guardLength ∧ (encodeCanvas (requestedGuarded 3)).getLsbD i = true) ∧
      (∀ i, i < (requestedGuarded 2).guardLength → (encodeCanvas (requestedGuarded 2)).getLsbD i = false) ∧
      (((requested 3 100 5 0).desc 2).kind = .state ∧ ¬Supplied (requested 3 100 5 0) 2 ∧
        rawToSem (requested 3 100 5 0) 0 = none) ∧
      ((∀ k, (onlyId.desc k).kind = .state → ¬Supplied onlyId k → rawToSem onlyId 0 ≠ none) ∧
        (onlyId.desc 1).kind = .value ∧ ¬Supplied onlyId 1 ∧ Supplied onlyId 0 ∧
        (onlyId.desc 2).kind = .state ∧ ¬Supplied onlyId 2 ∧ (onlyId.desc 3).kind = .sync) := by
  decide +kernel

/-- The request of entry (2, 1), 0x322, behind a guard of `n` pairs. -/
def patternGuarded (n : Word) : State := { requestedPattern 2 1 with guardLen := n }

/-- Entry (2, 0), equal to the earlier entry (0, 1). -/
def shadowed : State := { requestedPattern 2 0 with pt := epp.pt.set 8 0x122 }

set_option synthInstance.maxSize 1000 in
theorem witness_EncodedPatternDecodesToTheRequest :
    (GeometryLegal (patternGuarded 1) ∧ (patternGuarded 1).mode = .patterns ∧ TableLegal (patternGuarded 1) ∧
      Separable (patternGuarded 1) ∧ PatternRequestLegal (patternGuarded 1) ∧
      (∀ i, i < (patternGuarded 1).guardLength → ((patternGuarded 1).patternAt 9).getLsbD i = false) ∧
      EntryEquals (patternGuarded 1) ((patternGuarded 1).patternAt 9) 2 1 ∧
      ∀ c', c' < (patternGuarded 1).ncmd → ∀ st', st' < (patternGuarded 1).nstate → ScannedBefore c' st' 2 1 →
        ¬EntryEquals (patternGuarded 1) ((patternGuarded 1).patternAt 9) c' st') ∧
    (GeometryLegal (patternGuarded 2) ∧ TableLegal (patternGuarded 2) ∧ Separable (patternGuarded 2) ∧
      PatternRequestLegal (patternGuarded 2) ∧
      ∃ i, i < (patternGuarded 2).guardLength ∧ ((patternGuarded 2).patternAt 9).getLsbD i = true) ∧
    (GeometryLegal shadowed ∧ TableLegal shadowed ∧ PatternRequestLegal shadowed ∧
      EntryEquals shadowed (shadowed.patternAt 8) 0 1) := by
  decide +kernel

/-- Field 1 moved onto the top of field 0's window: [8, 17] over [0, 15]. -/
def overlapping : State := { requested 7 0xFFF0 0x3FF 1 with fd := efp.fd.set 1 ⟨0x00011108, 0, 0, 0x3FF⟩ }

set_option synthInstance.maxSize 1000 in
/-- Disjoint windows with an absent field, and overlapping windows; a position inside no window (32). -/
theorem witness_FieldCanvasHoldsThePlacedValues :
    (GeometryLegal (requested 5 100 0 1) ∧ (requested 5 100 0 1).mode = .fields ∧ LayoutLegal (requested 5 100 0 1) ∧
      RequestLegal (requested 5 100 0 1) ∧ ¬Supplied (requested 5 100 0 1) 1) ∧
    (GeometryLegal overlapping ∧ overlapping.mode = .fields ∧ LayoutLegal overlapping ∧ RequestLegal overlapping ∧
      (overlapping.desc 1).start ≤ (overlapping.desc 0).stop) ∧
    (∀ k, ((requested 5 100 0 1).desc k).kind ≠ .off →
      32 < ((requested 5 100 0 1).desc k).start ∨ ((requested 5 100 0 1).desc k).stop < 32) := by decide +kernel

/-- R148: the overlap holds the OR of 0xFFF0 at 0 and 0x3FF at 8, beside 51 at 20 and 10 at 28. -/
theorem test_overlap_is_or : encodeCanvas overlapping = 0xA333FFF0 := by decide +kernel

theorem witness_PatternCanvasHoldsTheRequestedEntry :
    GeometryLegal (requestedPattern 2 1) ∧ (requestedPattern 2 1).mode = .patterns ∧
      TableLegal (requestedPattern 2 1) ∧ PatternRequestLegal (requestedPattern 2 1) ∧
      11 < bodyBits (requestedPattern 2 1) ∧ bodyBits (requestedPattern 2 1) ≤ 12 := by decide +kernel

end Sys2Proof.Tests
end

section
/-! The family of `00_scope.md`: what the two words of STATUS hold, field by field (R18), and that every command ends
by `finish` or by `fail` with its own opcode (R12, R161). -/

namespace Sys2Proof.Machine

/-! ## The words `finish` and `fail` write are sums of their fields (R18) -/

/-- A byte of a word keeps all its bits when it is moved to its place. -/
theorem toNat_setWidth_shiftLeft (b : Byte) {n : Nat} (hn : n ≤ 24) :
    (b.setWidth 32 <<< n).toNat = b.toNat <<< n := by
  have hb : b.toNat <<< n < 2 ^ 32 := by
    rw [Nat.shiftLeft_eq]
    calc b.toNat * 2 ^ n ≤ 255 * 2 ^ 24 := Nat.mul_le_mul (by omega) (Nat.pow_le_pow_right (by decide) hn)
      _ < 2 ^ 32 := by decide
  rw [BitVec.toNat_shiftLeft, BitVec.toNat_setWidth_of_le (by decide), Nat.mod_eq_of_lt hb]

/-- Four bytes side by side are the sum of their weights, since no two of them share a bit. -/
theorem or_bytes_eq_sum (op field code : Byte) {low : Word} (h : low.toNat < 2 ^ 8) :
    (op.setWidth 32 <<< 24) ||| (field.setWidth 32 <<< 16) ||| (code.setWidth 32 <<< 8) ||| low =
      BitVec.ofNat 32 (op.toNat * 2 ^ 24 + field.toNat * 2 ^ 16 + code.toNat * 2 ^ 8 + low.toNat) := by
  have hcode : code.toNat <<< 8 + low.toNat < 2 ^ 16 := by rw [Nat.shiftLeft_eq]; omega
  have hfield : field.toNat <<< 16 + (code.toNat <<< 8 + low.toNat) < 2 ^ 24 := by
    rw [Nat.shiftLeft_eq field.toNat]; omega
  apply BitVec.eq_of_toNat_eq
  rw [BitVec.toNat_or, BitVec.toNat_or, BitVec.toNat_or, toNat_setWidth_shiftLeft op (by decide),
    toNat_setWidth_shiftLeft field (by decide), toNat_setWidth_shiftLeft code (by decide), Nat.or_assoc, Nat.or_assoc,
    ← Nat.shiftLeft_add_eq_or_of_lt h, ← Nat.shiftLeft_add_eq_or_of_lt hcode, ← Nat.shiftLeft_add_eq_or_of_lt hfield,
    BitVec.toNat_ofNat]
  simp only [Nat.shiftLeft_eq]
  omega

theorem okStatus_eq_okWord (op : Byte) (amb : Bool) : okStatus op amb = okWord op amb := by
  have h := or_bytes_eq_sum op Config.noField 0 (low := (BitVec.ofBool amb).setWidth 32 <<< 2 ||| 1#32 <<< 1)
    (by cases amb <;> decide)
  cases amb <;> simpa [okStatus, okWord, Config.noField, BitVec.or_assoc, Nat.add_assoc] using h

theorem failStatus_eq_failWord (op : Byte) (amb : Bool) (f : Failure) :
    failStatus op amb f = failWord op f.code.byte f.field amb := by
  have h := or_bytes_eq_sum op f.field f.code.byte (low := (BitVec.ofBool amb).setWidth 32 <<< 2)
    (by cases amb <;> decide)
  cases amb <;> exact h

/-! ## Reading the fields back -/

/-- A field of a word given as a number is a quotient and a remainder. -/
theorem extractLsb'_ofNat_eq {n lo len : Nat} {v : BitVec len} (h : n % 2 ^ 32 / 2 ^ lo % 2 ^ len = v.toNat) :
    (BitVec.ofNat 32 n).extractLsb' lo len = v :=
  BitVec.eq_of_toNat_eq (by rw [BitVec.extractLsb'_toNat, BitVec.toNat_ofNat, Nat.shiftRight_eq_div_pow, h])

/-- A bit of a word given as a number is the parity of a quotient. -/
theorem getLsbD_ofNat_eq {n i : Nat} {b : Bool} (h : n % 2 ^ 32 / 2 ^ i % 2 = b.toNat) :
    (BitVec.ofNat 32 n).getLsbD i = b := by
  rw [BitVec.getLsbD, BitVec.toNat_ofNat, Nat.testBit_eq_decide_div_mod_eq, h]
  cases b <;> rfl

/-- R18: what the word of a success says. -/
theorem okStatus_fields (op : Byte) (amb : Bool) :
    lastOp (okStatus op amb) = op ∧ errField (okStatus op amb) = 0xFF ∧ errCode (okStatus op amb) = 0 ∧
      (okStatus op amb).extractLsb' 3 5 = 0 ∧ (okStatus op amb).getLsbD 2 = amb ∧
      (okStatus op amb).getLsbD 1 = true ∧ (okStatus op amb).getLsbD 0 = false := by
  have hop := op.isLt
  have hamb := amb.toNat_le
  rw [okStatus_eq_okWord]
  refine ⟨extractLsb'_ofNat_eq ?_, extractLsb'_ofNat_eq ?_, extractLsb'_ofNat_eq ?_, extractLsb'_ofNat_eq ?_,
    getLsbD_ofNat_eq ?_, getLsbD_ofNat_eq ?_, getLsbD_ofNat_eq ?_⟩ <;> simp <;> omega

/-- R18: what the word of a failure says. -/
theorem failStatus_fields (op : Byte) (amb : Bool) (f : Failure) :
    lastOp (failStatus op amb f) = op ∧ errField (failStatus op amb f) = f.field ∧
      errCode (failStatus op amb f) = f.code.byte ∧ (failStatus op amb f).extractLsb' 3 5 = 0 ∧
      (failStatus op amb f).getLsbD 2 = amb ∧ (failStatus op amb f).getLsbD 1 = false ∧
      (failStatus op amb f).getLsbD 0 = false := by
  have hop := op.isLt
  have hfield := f.field.isLt
  have hcode := f.code.byte.isLt
  have hamb := amb.toNat_le
  rw [failStatus_eq_failWord]
  refine ⟨extractLsb'_ofNat_eq ?_, extractLsb'_ofNat_eq ?_, extractLsb'_ofNat_eq ?_, extractLsb'_ofNat_eq ?_,
    getLsbD_ofNat_eq ?_, getLsbD_ofNat_eq ?_, getLsbD_ofNat_eq ?_⟩ <;> simp <;> omega

/-- R173: no error is numbered 0, the number of a success. -/
theorem ErrCode.byte_ne_zero (c : ErrCode) : c.byte ≠ 0 := by cases c <;> decide

/-! ## The two ways a command ends (R12) -/

/-- R12: the command with opcode `op` ended by `finish()` or by `fail(code, field)`, on some state. -/
def EndsWith (op : Byte) (r : Result) : Prop :=
  (∃ amb t, r = finish op amb t) ∨ ∃ amb f t, r = fail op amb f t

theorem endsWith_finish (op : Byte) (amb : Bool) (t : State) : EndsWith op (finish op amb t) :=
  .inl ⟨amb, t, rfl⟩

theorem endsWith_fail (op : Byte) (amb : Bool) (f : Failure) (t : State) : EndsWith op (fail op amb f t) :=
  .inr ⟨amb, f, t, rfl⟩

/-- R162: `no_message` ends by `fail`, after its write to MSG_STAT. -/
theorem endsWith_noMessage (op : Byte) (amb : Bool) (f : Failure) (t : State) :
    EndsWith op (noMessage op amb f t) :=
  endsWith_fail op amb f { t with msgStat := noMessageStat f.code }

/-- R161: every command ends by `finish` or `fail`, with its own opcode. -/
theorem exec_endsWith_opcode (i : Instr) (s : State) : EndsWith (opcode i) (exec i s) := by
  cases i with
  | nop => exact endsWith_finish ..
  | inrange => exact endsWith_finish ..
  | b2v start stop =>
    show EndsWith 0x02 (execB2v start stop s)
    obtain ⟨_, h⟩ | ⟨_, _, h⟩ := execB2v_cases start stop s <;> rw [h]
    · exact endsWith_fail ..
    · exact endsWith_finish ..
  | v2b => exact endsWith_finish ..
  | validate =>
    show EndsWith 0x04 (execValidate s)
    obtain ⟨_, h⟩ | ⟨_, _, _, h⟩ | ⟨_, _, h⟩ := execValidate_cases s <;> rw [h]
    · exact endsWith_fail ..
    · exact endsWith_fail ..
    · exact endsWith_finish ..
  | demod =>
    show EndsWith 0x05 (execDemod s)
    obtain ⟨_, h⟩ | ⟨_, _, h⟩ | ⟨_, _, _, h⟩ | ⟨_, _, _, h⟩ := execDemod_cases s <;> rw [h]
    · exact endsWith_fail ..
    · exact endsWith_fail ..
    · exact endsWith_fail ..
    · exact endsWith_finish ..
  | bvdecode =>
    show EndsWith 0x06 (execBvdecode s)
    obtain ⟨_, _, h⟩ | ⟨_, _, _, _, h⟩ | ⟨_, _, _, _, h⟩ := execBvdecode_cases s <;> rw [h]
    · exact endsWith_noMessage ..
    · exact endsWith_noMessage ..
    · exact endsWith_finish ..
  | decode =>
    show EndsWith 0x07 (execDecode s)
    obtain ⟨_, _, h⟩ | ⟨_, _, _, _, h⟩ | ⟨_, _, _, h⟩ := execDecode_cases s <;> rw [h]
    · exact endsWith_noMessage ..
    · exact endsWith_noMessage ..
    · exact endsWith_finish ..
  | reqchk =>
    show EndsWith 0x08 (execReqchk s)
    obtain ⟨_, _, h⟩ | ⟨_, _, _, _, h⟩ | ⟨_, _, _, h⟩ := execReqchk_cases s <;> rw [h]
    · exact endsWith_fail ..
    · exact endsWith_fail ..
    · exact endsWith_finish ..
  | encode =>
    show EndsWith 0x09 (execEncode s)
    obtain ⟨_, _, h⟩ | ⟨_, _, _, _, h⟩ | ⟨_, _, _, h⟩ := execEncode_cases s <;> rw [h]
    · exact endsWith_fail ..
    · exact endsWith_fail ..
    · exact endsWith_finish ..

/-- Settles O21: a command ends by `finish` or `fail`, and each writes a STATUS word whose fields are known. -/
theorem everyCommandEndsWithItsStatus : Obligations.EveryCommandEndsWithItsStatus := by
  unfold Obligations.EveryCommandEndsWithItsStatus
  intro i s
  obtain ⟨amb, t, h⟩ | ⟨amb, f, t, h⟩ := exec_endsWith_opcode i s
  · obtain ⟨hop, hfield, hcode, hrsv, _, hok, hbusy⟩ := okStatus_fields (opcode i) amb
    exact ⟨_, h, hop, hbusy, hrsv, .inl ⟨hok, hcode, hfield⟩⟩
  · obtain ⟨hop, _, hcode, hrsv, _, hok, hbusy⟩ := failStatus_fields (opcode i) amb f
    exact ⟨_, h, hop, hbusy, hrsv, .inr ⟨hok, hcode ▸ f.code.byte_ne_zero⟩⟩

end Sys2Proof.Machine
end

section
/-! The family of `10_state.md`: the register map at the port (R47, R48, R49, R68), the reset values (R58), and the
reserved bits, which every step keeps at 0 (R47). -/

namespace Sys2Proof.Machine

/-! ## What an aligned word access does (R63, R66, R68) -/

/-- R63: an aligned word read outside reset returns what `portRead` finds at the offset. -/
theorem step_read {s : State} {addr : BitVec 12} {rest : List Input} (hr : s.resetAsserted = false)
    (ha : addr.toNat % 4 = 0) (h : s.pending = .read addr .word :: rest) :
    step s = .next { s with pending := rest, replies := portRead { s with pending := rest } addr.toNat :: s.replies } := by
  have hacc : accessRefusal { s with pending := rest } addr .word = none := accessRefusal_aligned hr ha
  rw [step_cons h, acceptInput, hacc]

/-- R68: an aligned word write outside reset is `portWrite` at the offset. -/
theorem step_write {s : State} {addr : BitVec 12} {v : Word} {rest : List Input} (hr : s.resetAsserted = false)
    (ha : addr.toNat % 4 = 0) (h : s.pending = .write addr .word v :: rest) :
    step s = portWrite { s with pending := rest } addr.toNat v := by
  have hacc : accessRefusal { s with pending := rest } addr .word = none := accessRefusal_aligned hr ha
  rw [step_cons h, acceptInput, hacc]

/-- R68: a word write at a register's offset reaches that register. -/
theorem step_write_register {s : State} {r : Reg} {v : Word} {rest : List Input} (hr : s.resetAsserted = false)
    (h : s.pending = .write (BitVec.ofNat 12 r.offset) .word v :: rest) :
    step s = writeMapped { s with pending := rest } r v := by
  obtain ⟨hreg, haligned, _⟩ := regAt_offset r
  rw [step_write hr (by rw [toNat_offset]; exact haligned) h, toNat_offset, portWrite, hreg]

/-- R49: where no register has an aligned offset, the map finds none. -/
theorem regAt_eq_none_of_unmapped {n : Nat} (hn : n < 4096) (h4 : n % 4 = 0) (h : ∀ r : Reg, r.offset ≠ n) :
    regAt n = none := by
  cases hr : regAt n with
  | none => rfl
  | some r => exact absurd (regAt_sound hn h4 hr) (h r)

/-! ## What a write to a mapped register does (R19, R47, R48, R68) -/

theorem writeMapped_cmd (s : State) (w : Word) : writeMapped s .cmd w = runCommand w { s with cmd := w } := by
  have hw : w &&& Reg.cmd.fieldMask = w := BitVec.and_allOnes
  rw [writeMapped, if_pos rfl, writeReg, hw, putReg]

theorem writeMapped_store (s : State) {r : Reg} {v : Word} (hcmd : r ≠ .cmd) (hctrl : r = .ctrl → v.getLsbD 31 = false) :
    writeMapped s r v = .next (writeReg s r v) := by
  have hsrst : ¬(r = .ctrl ∧ v.getLsbD 31 = true) := fun ⟨hr, hv⟩ => Bool.false_ne_true ((hctrl hr).symm.trans hv)
  rw [writeMapped, if_neg hcmd, if_neg hsrst]

/-- Every way a write to a mapped register can end: a command, a soft reset, or a store. -/
theorem writeMapped_cases (s : State) (r : Reg) (v : Word) :
    writeMapped s r v = runCommand v { s with cmd := v } ∨ writeMapped s r v = .next (softReset s) ∨
      writeMapped s r v = .next (writeReg s r v) := by
  by_cases hcmd : r = .cmd
  · exact .inl (hcmd ▸ writeMapped_cmd s v)
  · by_cases hsrst : r = .ctrl ∧ v.getLsbD 31 = true
    · exact .inr (.inl (by rw [writeMapped, if_neg hcmd, if_pos hsrst]))
    · exact .inr (.inr (by rw [writeMapped, if_neg hcmd, if_neg hsrst]))

/-- R48: a read-only register has no store. -/
theorem putReg_of_not_writable (s : State) {r : Reg} (v : Word) (hr : r.writable = false) : putReg s r v = s := by
  cases r with
  | id | status | result | result2 | lo | hi | ambPos | bvLen | msgStat | msg | msgCmd | msgSidx => rfl
  | _ => cases hr

@[simp] theorem putReg_pending (s : State) (r : Reg) (v : Word) : (putReg s r v).pending = s.pending := by
  cases r <;> rfl

@[simp] theorem putReg_replies (s : State) (r : Reg) (v : Word) : (putReg s r v).replies = s.replies := by
  cases r <;> rfl

@[simp] theorem putReg_resetAsserted (s : State) (r : Reg) (v : Word) :
    (putReg s r v).resetAsserted = s.resetAsserted := by
  cases r <;> rfl

@[simp] theorem putReg_powerOns (s : State) (r : Reg) (v : Word) : (putReg s r v).powerOns = s.powerOns := by
  cases r <;> rfl

/-- What a read returns does not depend on the port: the inputs to come, the values read and the reset input. -/
theorem readReg_port (s : State) (q : Reg) (inputs : List Input) (values : List Word) (b : Bool) (n : Nat) :
    readReg { s with pending := inputs, replies := values, resetAsserted := b, powerOns := n } q = readReg s q := by
  cases q <;> rfl

/-- Settles O7: the map finds no register there, so the port reads 0 and drops a write. -/
theorem unmappedOffsetsReadZeroAndIgnoreWrites : Obligations.UnmappedOffsetsReadZeroAndIgnoreWrites := by
  unfold Obligations.UnmappedOffsetsReadZeroAndIgnoreWrites
  intro s addr v rest hr ha hunmapped
  have hnone : regAt addr.toNat = none := regAt_eq_none_of_unmapped addr.isLt ha hunmapped
  refine ⟨fun h => ?_, fun h => ?_⟩
  · rw [step_read hr ha h, portRead, hnone]
  · rw [step_write hr ha h, portWrite, hnone]

/-- Settles O8: none of the listed registers is writable, and none is CMD or CTRL. -/
theorem readOnlyRegistersIgnoreWrites : Obligations.ReadOnlyRegistersIgnoreWrites := by
  unfold Obligations.ReadOnlyRegistersIgnoreWrites
  intro s r v rest hlist h hr
  have hro : r.writable = false := by
    obtain rfl | rfl | rfl | rfl | rfl | rfl | rfl | rfl | rfl | ⟨_, rfl⟩ | rfl | rfl := hlist <;> rfl
  have hcmd : r ≠ .cmd := by rintro rfl; cases hro
  have hctrl : r ≠ .ctrl := by rintro rfl; cases hro
  rw [step_write_register hr h, writeMapped_store _ hcmd fun e => absurd e hctrl, writeReg,
    putReg_of_not_writable _ _ hro]

/-- Settles O9, by the two rules of a store: what it reads back, and that no other register sees it. -/
theorem writeStoresTheFieldsOnly : Obligations.WriteStoresTheFieldsOnly := by
  unfold Obligations.WriteStoresTheFieldsOnly
  intro s r v rest hw hcmd hctrl h hr
  refine ⟨writeReg { s with pending := rest } r v, ?_, readReg_putReg_self _ _ hw, fun q hq hb => ?_, ?_, ?_, ?_, ?_⟩
  · rw [step_write_register hr h, writeMapped_store _ hcmd hctrl]
  · rw [writeReg, readReg_putReg_of_ne _ _ hq hb]
    exact readReg_port s q rest s.replies s.resetAsserted s.powerOns
  all_goals simp [writeReg]

/-- Settles O5: the write stores the word in CMD, all of whose bits are its field, and runs what the word decodes to. -/
theorem stepRunsDecodedCommand : Obligations.StepRunsDecodedCommand := by
  unfold Obligations.StepRunsDecodedCommand
  intro s w i rest h hr hdec _
  rw [step_write_register (r := .cmd) hr h, writeMapped_cmd, runCommand, hdec]

/-! ## An illegal geometry (R114) -/

theorem cfgAll_of_illegal {s : State} (hg : ¬GeometryLegal s) : cfgAll s = some geometryError := by
  rw [cfgAll, cfgGlobal_of_illegal hg]

/-- R114: the six frame-level commands under an illegal geometry. -/
theorem exec_of_illegal_geometry {s : State} (hg : ¬GeometryLegal s) :
    exec .validate s = .next { s with status := 0x04FF3100 } ∧
      exec .demod s = .next { s with status := 0x05FF3100 } ∧
      exec .bvdecode s = .next { s with status := 0x06FF3100, msgStat := 0x3100 } ∧
      exec .decode s = .next { s with status := 0x07FF3100, msgStat := 0x3100 } ∧
      exec .reqchk s = .next { s with status := 0x08FF3100 } ∧
      exec .encode s = .next { s with status := 0x09FF3100 } := by
  refine ⟨?_, ?_, ?_, ?_, ?_, ?_⟩
  · rw [exec, execValidate, cfgGlobal_of_illegal hg]; rfl
  · rw [exec, execDemod, cfgGlobal_of_illegal hg]; rfl
  · rw [exec, execBvdecode, cfgAll_of_illegal hg]; rfl
  · rw [exec, execDecode, cfgAll_of_illegal hg]; rfl
  · rw [exec, execReqchk, cfgAll_of_illegal hg]; rfl
  · rw [exec, execEncode, cfgAll_of_illegal hg]; rfl

theorem errCode_okStatus (op : Byte) (amb : Bool) : errCode (okStatus op amb) = 0 := by
  obtain ⟨_, _, hcode, _⟩ := okStatus_fields op amb
  exact hcode

theorem errCode_failStatus (op : Byte) (amb : Bool) (f : Failure) : errCode (failStatus op amb f) = f.code.byte := by
  obtain ⟨_, _, hcode, _⟩ := failStatus_fields op amb f
  exact hcode

/-- R114: with a legal geometry VALIDATE and DEMOD end in success or in an error of the train. -/
theorem validate_demod_no_configError {s : State} (hg : GeometryLegal s) {i : Instr} (hi : i = .validate ∨ i = .demod) :
    ∃ t, exec i s = .next t ∧ errCode t.status ≠ 0x31 := by
  obtain rfl | rfl := hi
  · show ∃ t, execValidate s = .next t ∧ _
    obtain ⟨hn, _⟩ | ⟨_, f, hf, h⟩ | ⟨_, _, h⟩ := execValidate_cases s
    · exact absurd hg hn
    · refine ⟨_, h, ?_⟩
      rw [errCode_failStatus]
      obtain rfl | rfl | rfl | rfl := frameCheck_eq_some hf <;> decide
    · refine ⟨_, h, ?_⟩
      rw [errCode_okStatus]; decide
  · show ∃ t, execDemod s = .next t ∧ _
    obtain ⟨hn, _⟩ | ⟨_, _, h⟩ | ⟨_, _, _, h⟩ | ⟨_, _, _, h⟩ := execDemod_cases s
    · exact absurd hg hn
    · refine ⟨_, h, ?_⟩
      rw [errCode_failStatus]; decide
    · refine ⟨_, h, ?_⟩
      rw [errCode_failStatus]; decide
    · refine ⟨_, h, ?_⟩
      rw [errCode_okStatus]; decide

/-- Settles O31: the geometry check comes first in every frame-level command, and BV_LEN is its body length. -/
theorem illegalGeometryIsConfigError : Obligations.IllegalGeometryIsConfigError := by
  unfold Obligations.IllegalGeometryIsConfigError
  intro s
  refine ⟨fun hg => ⟨?_, bodyBits_le hg, trainLength_eq hg, fun i hi => validate_demod_no_configError hg hi⟩,
    fun hg => ⟨?_, exec_of_illegal_geometry hg⟩⟩
  · rw [readReg, bvLen_of_legal hg]
  · rw [readReg, bvLen_of_illegal hg]; rfl

/-! ## The reset values (R58) -/

theorem not_geometryLegal_reset : ¬GeometryLegal State.reset := by
  rintro ⟨hheader, _⟩
  revert hheader
  decide

/-- R58: every register but ID, AMB_POS, the pattern memory and the pulse buffer is 0 after reset. -/
theorem readReg_reset_eq_zero {r : Reg} (hid : r ≠ .id) (hamb : r ≠ .ambPos) (hpt : ∀ e w, r ≠ .ptw e w)
    (hpulse : ∀ p, r ≠ .pulse p) : readReg State.reset r = 0 := by
  cases r with
  | id => exact absurd rfl hid
  | ambPos => exact absurd rfl hamb
  | ptw e w => exact absurd rfl (hpt e w)
  | pulse p => exact absurd rfl (hpulse p)
  | bvLen => rw [readReg, bvLen_of_illegal not_geometryLegal_reset]; rfl
  | bvw w => simp [readReg, State.reset, wordOf]
  | fdCfg k | fdConst k | fdMin k | fdMax k | smRaw k | smSem k | cfCfg k | cfVal k | req k | msg k =>
    simp [readReg, State.reset]
  | _ => rfl

/-- Settles O13: the table, and the six commands under the illegal geometry it holds. -/
theorem resetValuesOfTheTable : Obligations.ResetValuesOfTheTable := by
  unfold Obligations.ResetValuesOfTheTable
  refine ⟨rfl, rfl, fun r => readReg_reset_eq_zero, fun i hi => ?_⟩
  obtain ⟨hvalidate, hdemod, hbvdecode, hdecode, hreqchk, hencode⟩ := exec_of_illegal_geometry not_geometryLegal_reset
  obtain rfl | rfl | rfl | rfl | rfl | rfl := hi
  · exact ⟨_, hvalidate, by decide, by decide⟩
  · exact ⟨_, hdemod, by decide, by decide⟩
  · exact ⟨_, hbvdecode, by decide, by decide⟩
  · exact ⟨_, hdecode, by decide, by decide⟩
  · exact ⟨_, hreqchk, by decide, by decide⟩
  · exact ⟨_, hencode, by decide, by decide⟩

/-- Settles O20: STATUS holds its reset value, MSG_STAT no message and no error, AMB_POS no position. -/
theorem reportsLegalAtReset : Obligations.ReportsLegalAtReset :=
  ⟨.inl rfl, .inl ⟨rfl, rfl, rfl, .inl rfl⟩, .inl rfl⟩

/-- What a read of any register but PT and PULSE returns does not depend on those two buffers, nor on the port. -/
theorem readReg_buffers_port (s : State) (patterns : Vector (BitVec 256) 32) (pulses : Vector Word 512)
    (inputs : List Input) (values : List Word) (b : Bool) (n : Nat) {r : Reg} (hpt : ∀ e w, r ≠ .ptw e w)
    (hpulse : ∀ p, r ≠ .pulse p) :
    readReg { s with
      pt := patterns, pulse := pulses, pending := inputs, replies := values, resetAsserted := b, powerOns := n } r =
      readReg s r := by
  cases r with
  | ptw e w => exact absurd rfl (hpt e w)
  | pulse p => exact absurd rfl (hpulse p)
  | _ => rfl

/-- After a soft reset a register reads its reset value, PT and PULSE apart (R189). -/
theorem readReg_softReset (s : State) {r : Reg} (hpt : ∀ e w, r ≠ .ptw e w) (hpulse : ∀ p, r ≠ .pulse p) :
    readReg (softReset s) r = readReg State.reset r :=
  readReg_buffers_port State.reset _ _ _ _ _ _ hpt hpulse

/-- After a power-on reset a register reads its reset value, PT and PULSE apart (R188). -/
theorem readReg_powerOnReset (s : State) {r : Reg} (hpt : ∀ e w, r ≠ .ptw e w) (hpulse : ∀ p, r ≠ .pulse p) :
    readReg (powerOnReset s) r = readReg State.reset r :=
  readReg_buffers_port State.reset _ _ _ _ _ _ hpt hpulse

/-! ## The bits of a register that are not reserved (R47) -/

/-- R47: a word a register can hold, its reserved bits 0; what `ReservedClear` asks of each register. -/
def Fits (r : Reg) (w : Word) : Prop := w &&& ~~~r.fieldMask = 0

theorem fits_iff_getLsbD {r : Reg} {w : Word} :
    Fits r w ↔ ∀ i < 32, r.fieldMask.getLsbD i = false → w.getLsbD i = false := by
  have hbit : ∀ i < 32, (w &&& ~~~r.fieldMask).getLsbD i = (w.getLsbD i && !r.fieldMask.getLsbD i) := by
    intro i hi
    rw [BitVec.getLsbD_and, BitVec.getLsbD_not, decide_eq_true hi, Bool.true_and]
  constructor
  · intro h i hi hmask
    have := hbit i hi
    rw [show w &&& ~~~r.fieldMask = 0 from h, hmask] at this
    simpa using this.symm
  · intro h
    refine BitVec.eq_of_getLsbD_eq fun i hi => ?_
    rw [hbit i hi]
    cases hmask : r.fieldMask.getLsbD i with
    | false => simp [h i hi hmask]
    | true => simp

theorem fits_zero (r : Reg) : Fits r 0 := BitVec.zero_and

theorem fits_masked (r : Reg) (w : Word) : Fits r (w &&& r.fieldMask) := by
  rw [Fits, BitVec.and_assoc, BitVec.and_not_self]; exact BitVec.and_zero

/-- A register without reserved bits holds every word. -/
theorem fits_of_no_reserved_bit {r : Reg} (h : r.fieldMask = 0xFFFFFFFF) (w : Word) : Fits r w := by
  rw [Fits, h]; exact BitVec.and_zero

/-- A register whose one field is its low `k` bits holds every number of `k` bits. -/
theorem fits_of_toNat_lt {r : Reg} {w : Word} {k : Nat} (hmask : ∀ i < 32, i < k → r.fieldMask.getLsbD i = true)
    (hw : w.toNat < 2 ^ k) : Fits r w := by
  rw [fits_iff_getLsbD]
  intro i hi hzero
  have hk : k ≤ i := by
    by_contra hlt
    rw [hmask i hi (by omega)] at hzero
    cases hzero
  rw [BitVec.getLsbD, Nat.testBit_lt_two_pow (hw.trans_le (Nat.pow_le_pow_right (by decide) hk))]

/-- BV_LEN is at most 255, so its 8 bits hold it (R25). -/
theorem fits_bvLen (s : State) : Fits .bvLen (BitVec.ofNat 32 s.bvLen) := by
  have hle := bvLen_le s
  refine fits_of_toNat_lt (k := 8) (by decide) ?_
  rw [BitVec.toNat_ofNat]
  omega

/-- PULSE_COUNT holds the number of pulses of a synthesised train (R24, R130). -/
theorem fits_pulseCount_trainLength (s : State) : Fits .pulseCount (BitVec.ofNat 32 s.trainLength) := by
  have hlt : s.trainLength < 2 ^ 10 := bitsOf_lt s.trainLen 0 10
  refine fits_of_toNat_lt (k := 10) (by decide) ?_
  rw [BitVec.toNat_ofNat]
  omega

/-- R18: the reserved bits of STATUS are 7:3, and BUSY is never seen as 1. -/
theorem fits_status {w : Word} (hrsv : w.extractLsb' 3 5 = 0) (hbusy : w.getLsbD 0 = false) : Fits .status w := by
  rw [fits_iff_getLsbD]
  intro i hi hmask
  have hwhere : i = 0 ∨ 3 ≤ i ∧ i < 8 := by revert i; decide
  obtain rfl | ⟨hlo, hhi⟩ := hwhere
  · exact hbusy
  · have hbit := congrArg (fun v : BitVec 5 => v.getLsbD (i - 3)) hrsv
    simpa [show i - 3 < 5 by omega, show 3 + (i - 3) = i by omega] using hbit

theorem fits_status_okStatus (op : Byte) (amb : Bool) : Fits .status (okStatus op amb) := by
  obtain ⟨_, _, _, hrsv, _, _, hbusy⟩ := okStatus_fields op amb
  exact fits_status hrsv hbusy

theorem fits_status_failStatus (op : Byte) (amb : Bool) (f : Failure) : Fits .status (failStatus op amb f) := by
  obtain ⟨_, _, _, hrsv, _, _, hbusy⟩ := failStatus_fields op amb f
  exact fits_status hrsv hbusy

theorem fits_msgStat_noMessageStat (code : ErrCode) : Fits .msgStat (noMessageStat code) := by
  unfold Fits
  cases code <;> decide

/-- R26: MSG_STAT's reserved bits are 29:16, above PRESENT and below VALID. -/
theorem fits_msgStat_fieldMessageStat (p : Byte) : Fits .msgStat (fieldMessageStat p) := by
  rw [fits_iff_getLsbD]
  intro i hi hmask
  have hwhere : 8 ≤ i ∧ i < 31 := by revert i; decide
  have hpresent : (p.setWidth 32).getLsbD i = false := by
    rw [BitVec.getLsbD_setWidth, BitVec.getLsbD_of_ge p i hwhere.1, Bool.and_false]
  rw [fieldMessageStat, BitVec.getLsbD_or, hpresent, BitVec.getLsbD_shiftLeft, decide_eq_true hwhere.2]
  simp

theorem fits_msgStat_patternMessageStat : Fits .msgStat patternMessageStat := by
  unfold Fits
  decide

/-! ## What keeps the reserved bits at 0 (R47) -/

/-- A change of the registers commands write, and of the port, keeps the reserved bits at 0 when STATUS, PULSE_COUNT and
MSG_STAT do: no other register among them has reserved bits. -/
theorem reservedClear_of_frame {s t : State} (hs : ReservedClear s)
    (hframe : t = { s with
      status := t.status, pulseCount := t.pulseCount, msgStat := t.msgStat, result := t.result, result2 := t.result2
      lo := t.lo, hi := t.hi, ambPos := t.ambPos, msg := t.msg, msgCmd := t.msgCmd, msgSidx := t.msgSidx, bv := t.bv
      pulse := t.pulse, cmd := t.cmd, pending := t.pending, replies := t.replies, resetAsserted := t.resetAsserted })
    (hstatus : Fits .status t.status) (hcount : Fits .pulseCount t.pulseCount)
    (hmsgStat : Fits .msgStat t.msgStat) : ReservedClear t := by
  intro r
  by_cases hfull : r.fieldMask = 0xFFFFFFFF
  · exact fits_of_no_reserved_bit hfull _
  · cases r with
    | status => exact hstatus
    | pulseCount => exact hcount
    | msgStat => exact hmsgStat
    | bvLen => exact fits_bvLen t
    | ctrl => rw [hframe]; exact hs .ctrl
    | trainLen => rw [hframe]; exact hs .trainLen
    | epsNum => rw [hframe]; exact hs .epsNum
    | hdrLen => rw [hframe]; exact hs .hdrLen
    | ftrLen => rw [hframe]; exact hs .ftrLen
    | guardLen => rw [hframe]; exact hs .guardLen
    | ptDim => rw [hframe]; exact hs .ptDim
    | reqPresent => rw [hframe]; exact hs .reqPresent
    | fdCfg k => rw [hframe]; exact hs (.fdCfg k)
    | smSem j => rw [hframe]; exact hs (.smSem j)
    | cfCfg c => rw [hframe]; exact hs (.cfCfg c)
    | _ => exact absurd rfl hfull

theorem reservedClear_withStatus {s : State} (hs : ReservedClear s) {w : Word} (hw : Fits .status w) :
    ReservedClear { s with status := w } :=
  reservedClear_of_frame hs rfl hw (hs .pulseCount) (hs .msgStat)

theorem reservedClear_withMsgStat {s : State} (hs : ReservedClear s) {w : Word} (hw : Fits .msgStat w) :
    ReservedClear { s with msgStat := w } :=
  reservedClear_of_frame hs rfl (hs .status) (hs .pulseCount) hw

theorem reservedClear_withPort {s : State} (hs : ReservedClear s) (inputs : List Input) (values : List Word) (b : Bool) :
    ReservedClear { s with pending := inputs, replies := values, resetAsserted := b } :=
  reservedClear_of_frame hs rfl (hs .status) (hs .pulseCount) (hs .msgStat)

theorem reservedClear_withResults {s : State} (hs : ReservedClear s) (result result2 lo hi : Word) :
    ReservedClear { s with result := result, result2 := result2, lo := lo, hi := hi } :=
  reservedClear_of_frame hs rfl (hs .status) (hs .pulseCount) (hs .msgStat)

theorem reservedClear_demodBody {s : State} (hs : ReservedClear s) : ReservedClear (demodBody s) :=
  reservedClear_of_frame hs rfl (hs .status) (hs .pulseCount) (hs .msgStat)

theorem reservedClear_synth {s : State} (hs : ReservedClear s) (canvas : BitVec 256) :
    ReservedClear (synth s canvas) :=
  reservedClear_of_frame hs rfl (hs .status) (fits_pulseCount_trainLength s) (hs .msgStat)

/-- A message decode writes one of the two message words to MSG_STAT. -/
theorem reservedClear_decodeMessage {s t : State} (hs : ReservedClear s) (h : decodeMessage s = .ok t) :
    ReservedClear t := by
  obtain ⟨_, hf⟩ | ⟨_, hp⟩ := decodeMessage_eq_ok h
  · obtain ⟨_, rfl⟩ := fieldDecode_eq_ok hf
    exact reservedClear_of_frame hs rfl (hs .status) (hs .pulseCount) (fits_msgStat_fieldMessageStat _)
  · obtain ⟨c, st, _, _, _, rfl⟩ := patternDecode_eq_ok hp
    exact reservedClear_of_frame hs rfl (hs .status) (hs .pulseCount) fits_msgStat_patternMessageStat

theorem reservedClear_decodeTrain {s : State} (hs : ReservedClear s) : ReservedClear (decodeTrain s).state := by
  obtain ⟨_, _, h⟩ | ⟨_, _, _, h⟩ | ⟨_, _, _, _, h⟩ | ⟨_, _, t, ht, h⟩ := decodeTrain_cases s <;> rw [h]
  · exact hs
  · exact reservedClear_demodBody hs
  · exact reservedClear_demodBody hs
  · exact reservedClear_decodeMessage (reservedClear_demodBody hs) ht

theorem reservedClear_echoDecode {s : State} (hs : ReservedClear s) : ReservedClear (echoDecode s) := by
  unfold echoDecode
  split
  · exact reservedClear_decodeTrain hs
  · exact reservedClear_withMsgStat (reservedClear_decodeTrain hs) (fits_msgStat_noMessageStat _)

/-- A store keeps the bits of the register's fields only. -/
theorem reservedClear_writeReg {s : State} (hs : ReservedClear s) (r : Reg) (v : Word) :
    ReservedClear (writeReg s r v) := by
  unfold writeReg
  cases hw : r.writable with
  | false => rw [putReg_of_not_writable _ _ hw]; exact hs
  | true =>
    intro q
    by_cases hb : q = .bvLen
    · subst hb; exact fits_bvLen _
    · by_cases hq : q = r
      · subst hq; rw [readReg_putReg_self _ _ hw]; exact fits_masked q v
      · rw [readReg_putReg_of_ne _ _ hq hb]; exact hs q

/-! ## Reset leaves every reserved bit 0 (R58, R188, R189) -/

/-- A state whose registers, PT and PULSE apart, read their reset values has no reserved bit set. -/
theorem reservedClear_of_reads_reset {t : State}
    (h : ∀ r : Reg, (∀ e w, r ≠ .ptw e w) → (∀ p, r ≠ .pulse p) → readReg t r = readReg State.reset r) :
    ReservedClear t := by
  intro r
  by_cases hfull : r.fieldMask = 0xFFFFFFFF
  · exact fits_of_no_reserved_bit hfull _
  · have hpt : ∀ e w, r ≠ .ptw e w := by rintro e w rfl; exact hfull rfl
    have hpulse : ∀ p, r ≠ .pulse p := by rintro p rfl; exact hfull rfl
    have hid : r ≠ .id := by rintro rfl; exact hfull rfl
    have hamb : r ≠ .ambPos := by rintro rfl; exact hfull rfl
    rw [h r hpt hpulse, readReg_reset_eq_zero hid hamb hpt hpulse]
    exact fits_zero r

/-- Settles O18. -/
theorem reservedBitsClearAtReset : Obligations.ReservedBitsClearAtReset :=
  reservedClear_of_reads_reset fun _ _ _ => rfl

theorem reservedClear_softReset (s : State) : ReservedClear (softReset s) :=
  reservedClear_of_reads_reset fun _ => readReg_softReset s

theorem reservedClear_driveReset {s : State} (hs : ReservedClear s) (b : Bool) : ReservedClear (driveReset s b) := by
  unfold driveReset
  split
  · exact reservedClear_withPort hs s.pending s.replies true
  · split
    · exact reservedClear_of_reads_reset fun _ => readReg_powerOnReset s
    · exact hs

/-! ## Every command and every input keeps the reserved bits at 0 (R47) -/

/-- The invariant of O17 on an outcome: whatever next state it gives has no reserved bit set. -/
def LeavesClear (r : Result) : Prop := ∀ t, r = .next t → ReservedClear t

theorem leavesClear_next {s : State} (hs : ReservedClear s) : LeavesClear (.next s) := by
  rintro t ⟨⟩
  exact hs

theorem leavesClear_finish {s : State} (hs : ReservedClear s) {op : Byte} {amb : Bool} :
    LeavesClear (finish op amb s) :=
  leavesClear_next (reservedClear_withStatus hs (fits_status_okStatus _ _))

theorem leavesClear_fail {s : State} (hs : ReservedClear s) {op : Byte} {amb : Bool} {f : Failure} :
    LeavesClear (fail op amb f s) :=
  leavesClear_next (reservedClear_withStatus hs (fits_status_failStatus op amb f))

theorem leavesClear_noMessage {s : State} (hs : ReservedClear s) {op : Byte} {amb : Bool} {f : Failure} :
    LeavesClear (noMessage op amb f s) :=
  leavesClear_fail (reservedClear_withMsgStat hs (fits_msgStat_noMessageStat f.code))

theorem leavesClear_exec (i : Instr) {s : State} (hs : ReservedClear s) : LeavesClear (exec i s) := by
  cases i with
  | nop => exact leavesClear_finish hs
  | inrange => exact leavesClear_finish (reservedClear_withResults hs _ _ _ _)
  | b2v start stop =>
    show LeavesClear (execB2v start stop s)
    obtain ⟨_, h⟩ | ⟨_, _, h⟩ := execB2v_cases start stop s <;> rw [h]
    · exact leavesClear_fail hs
    · exact leavesClear_finish (reservedClear_withResults hs _ _ _ _)
  | v2b => exact leavesClear_finish (reservedClear_withResults hs _ _ _ _)
  | validate =>
    show LeavesClear (execValidate s)
    obtain ⟨_, h⟩ | ⟨_, _, _, h⟩ | ⟨_, _, h⟩ := execValidate_cases s <;> rw [h]
    · exact leavesClear_fail hs
    · exact leavesClear_fail hs
    · exact leavesClear_finish hs
  | demod =>
    show LeavesClear (execDemod s)
    obtain ⟨_, h⟩ | ⟨_, _, h⟩ | ⟨_, _, _, h⟩ | ⟨_, _, _, h⟩ := execDemod_cases s <;> rw [h]
    · exact leavesClear_fail hs
    · exact leavesClear_fail hs
    · exact leavesClear_fail (reservedClear_demodBody hs)
    · exact leavesClear_finish (reservedClear_demodBody hs)
  | bvdecode =>
    show LeavesClear (execBvdecode s)
    obtain ⟨_, _, h⟩ | ⟨_, _, _, _, h⟩ | ⟨_, _, _, ht, h⟩ := execBvdecode_cases s <;> rw [h]
    · exact leavesClear_noMessage hs
    · exact leavesClear_noMessage hs
    · exact leavesClear_finish (reservedClear_decodeMessage hs ht)
  | decode =>
    show LeavesClear (execDecode s)
    obtain ⟨_, _, h⟩ | ⟨_, _, _, _, h⟩ | ⟨_, _, _, h⟩ := execDecode_cases s <;> rw [h]
    · exact leavesClear_noMessage hs
    · exact leavesClear_noMessage (reservedClear_decodeTrain hs)
    · exact leavesClear_finish (reservedClear_decodeTrain hs)
  | reqchk =>
    show LeavesClear (execReqchk s)
    obtain ⟨_, _, h⟩ | ⟨_, _, _, _, h⟩ | ⟨_, _, _, h⟩ := execReqchk_cases s <;> rw [h]
    · exact leavesClear_fail hs
    · exact leavesClear_fail hs
    · exact leavesClear_finish hs
  | encode =>
    show LeavesClear (execEncode s)
    obtain ⟨_, _, h⟩ | ⟨_, _, _, _, h⟩ | ⟨_, _, _, h⟩ := execEncode_cases s <;> rw [h]
    · exact leavesClear_fail hs
    · exact leavesClear_fail hs
    · exact leavesClear_finish (reservedClear_echoDecode (reservedClear_synth hs _))

theorem leavesClear_runCommand (w : Word) {s : State} (hs : ReservedClear s) : LeavesClear (runCommand w s) := by
  unfold runCommand
  split
  · exact leavesClear_exec _ hs
  · exact leavesClear_fail hs

theorem leavesClear_portWrite {s : State} (hs : ReservedClear s) (off : Nat) (v : Word) :
    LeavesClear (portWrite s off v) := by
  unfold portWrite
  split
  · next r _ =>
    obtain h | h | h := writeMapped_cases s r v <;> rw [h]
    · exact leavesClear_runCommand v (reservedClear_of_frame hs rfl (hs .status) (hs .pulseCount) (hs .msgStat))
    · exact leavesClear_next (reservedClear_softReset s)
    · exact leavesClear_next (reservedClear_writeReg hs r v)
  · exact leavesClear_next hs

theorem leavesClear_acceptInput {s : State} (hs : ReservedClear s) (i : Input) : LeavesClear (acceptInput s i) := by
  cases i with
  | read addr size =>
    rw [acceptInput]
    split
    · rintro t ⟨⟩
    · exact leavesClear_next (reservedClear_withPort hs s.pending _ s.resetAsserted)
  | write addr size v =>
    rw [acceptInput]
    split
    · rintro t ⟨⟩
    · exact leavesClear_portWrite hs addr.toNat v
  | resetLine asserted => exact leavesClear_next (reservedClear_driveReset hs asserted)

/-- Settles O17, by the form of the input the step takes: a command ends on a state it may write, a store keeps a
register's fields only, and a reset leaves the reset values. -/
theorem stepKeepsReservedBitsClear : Obligations.StepKeepsReservedBitsClear := by
  unfold Obligations.StepKeepsReservedBitsClear
  intro s t hs h
  cases hpending : s.pending with
  | nil =>
    rw [step_idle hpending] at h
    exact leavesClear_next hs t h
  | cons i rest =>
    rw [step_cons hpending] at h
    exact leavesClear_acceptInput (reservedClear_withPort hs rest s.replies s.resetAsserted) i t h

end Sys2Proof.Machine
end

section
/-! The family of `20_memory.md`: a read and what it leaves (R63, R68), which accesses the port refuses (R66), and that
what an input does is settled without the inputs behind it (R67, R70, R71). -/

namespace Sys2Proof.Machine

/-! ## Reading a register (R63, R68) -/

/-- R63: a word read at a register's offset finds that register. -/
theorem portRead_offset (s : State) (r : Reg) : portRead s r.offset = readReg s r := by
  rw [portRead, (regAt_offset r).1]

/-- Settles O6: the map finds the register at its offset, and what it reads does not depend on the port. -/
theorem readReturnsTheRegister : Obligations.ReadReturnsTheRegister := by
  unfold Obligations.ReadReturnsTheRegister
  intro s r rest h hr
  have haligned : (BitVec.ofNat 12 r.offset).toNat % 4 = 0 := by rw [toNat_offset]; exact (regAt_offset r).2.1
  have hread : readReg { s with pending := rest } r = readReg s r :=
    readReg_port s r rest s.replies s.resetAsserted s.powerOns
  rw [step_read hr haligned h, toNat_offset, portRead_offset, hread]

/-! ## The accesses the port refuses (R66, I2, I5) -/

/-- R66, I2, I5: an access made while reset is asserted, narrower than a word, or misaligned. -/
def ImpossibleAccess (s : State) (addr : BitVec 12) (size : AccessSize) : Prop :=
  s.resetAsserted = true ∨ size ≠ .word ∨ addr.toNat % 4 ≠ 0

/-- The two low bits of an offset are its remainder by 4. -/
theorem extractLsb'_eq_zero_iff (addr : BitVec 12) : addr.extractLsb' 0 2 = 0 ↔ addr.toNat % 4 = 0 := by
  rw [← BitVec.toNat_inj, BitVec.extractLsb'_toNat]
  simp

/-- R66, I2, I5: the port refuses the accesses it cannot make, and no other. -/
theorem accessRefusal_cases (s : State) (addr : BitVec 12) (size : AccessSize) :
    (ImpossibleAccess s addr size ∧ ∃ x, accessRefusal s addr size = some x) ∨
    (¬ImpossibleAccess s addr size ∧ accessRefusal s addr size = none) := by
  have hiff : accessRefusal s addr size = none ↔ ¬ImpossibleAccess s addr size := by
    rw [accessRefusal_eq_none_iff, extractLsb'_eq_zero_iff, ImpossibleAccess]
    simp
  by_cases h : ImpossibleAccess s addr size
  · exact .inl ⟨h, Option.ne_none_iff_exists'.1 fun hnone => hiff.1 hnone h⟩
  · exact .inr ⟨h, hiff.2 h⟩

/-- R68: an aligned word write ends in a next state, whatever stands at the offset. -/
theorem portWrite_next (s : State) (off : Nat) (v : Word) : ∃ t, portWrite s off v = .next t := by
  unfold portWrite
  split
  · next r _ =>
    obtain h | h | h := writeMapped_cases s r v <;> rw [h]
    · exact runCommand_next v _
    · exact ⟨_, rfl⟩
    · exact ⟨_, rfl⟩
  · exact ⟨_, rfl⟩

/-- R66, I2, I5: the input is an access the port cannot make in the state. -/
def ImpossibleInput (s : State) : Input → Prop
  | .read addr size | .write addr size _ => ImpossibleAccess s addr size
  | .resetLine _ => False

/-- R66, R172: every way an input can end: a refusal for an impossible access, a next state for any other input. -/
theorem acceptInput_cases (s : State) (i : Input) :
    (ImpossibleInput s i ∧ ∃ x, acceptInput s i = .refused x) ∨
    (¬ImpossibleInput s i ∧ ∃ t, acceptInput s i = .next t) := by
  cases i with
  | read addr size =>
    obtain ⟨himp, x, h⟩ | ⟨hpos, h⟩ := accessRefusal_cases s addr size
    · exact .inl ⟨himp, x, by rw [acceptInput, h]⟩
    · exact .inr ⟨hpos, _, by rw [acceptInput, h]⟩
  | write addr size v =>
    obtain ⟨himp, x, h⟩ | ⟨hpos, h⟩ := accessRefusal_cases s addr size
    · exact .inl ⟨himp, x, by rw [acceptInput, h]⟩
    · exact .inr ⟨hpos, by rw [acceptInput, h]; exact portWrite_next s addr.toNat v⟩
  | resetLine asserted => exact .inr ⟨id, _, rfl⟩

/-- Settles O10, by the input the step takes: an idle machine holds its state, and an input is refused exactly when it
is an impossible access. -/
theorem stepRefusesOnlyImpossibleAccesses : Obligations.StepRefusesOnlyImpossibleAccesses := by
  unfold Obligations.StepRefusesOnlyImpossibleAccesses
  intro s
  cases hp : s.pending with
  | nil => simp [step_idle hp]
  | cons i rest =>
    rw [step_cons hp]
    obtain ⟨himp, x, hx⟩ | ⟨hpos, t, ht⟩ := acceptInput_cases { s with pending := rest } i
    · refine ⟨⟨fun _ => ?_, fun _ => ⟨x, hx⟩⟩, .inl ⟨x, hx⟩⟩
      cases i with
      | read addr size => exact ⟨addr, size, 0, rest, .inl rfl, himp⟩
      | write addr size v => exact ⟨addr, size, v, rest, .inr rfl, himp⟩
      | resetLine asserted => exact himp.elim
    · rw [ht]
      refine ⟨⟨nofun, ?_⟩, .inr ⟨t, rfl⟩⟩
      rintro ⟨addr, size, v, rest', ⟨⟨⟩⟩ | ⟨⟨⟩⟩, himp⟩
      · exact (hpos himp).elim
      · exact (hpos himp).elim

/-! ## The inputs still to come (R67, R70, R71) -/

/-- The state with other inputs still to come. -/
def State.withPending (s : State) (inputs : List Input) : State := { s with pending := inputs }

/-- The outcome with other inputs still to come in the state it leaves. -/
def Result.withPending (inputs : List Input) : Result → Result
  | .next t => .next (t.withPending inputs)
  | .fault f => .fault f
  | .refused x => .refused x

/-- R67: the operation does the same whatever inputs are still to come, and leaves them still to come. -/
def IgnoresPending (f : State → Result) : Prop :=
  ∀ s inputs, f (s.withPending inputs) = Result.withPending inputs (f s)

section
variable (s : State) (inputs : List Input)

/-! What a command reads of the state. -/

theorem ambStrict_withPending : (s.withPending inputs).ambStrict = s.ambStrict := rfl

theorem cfgGlobal_withPending : cfgGlobal (s.withPending inputs) = cfgGlobal s := rfl

theorem cfgAll_withPending : cfgAll (s.withPending inputs) = cfgAll s := rfl

theorem lengthOk_withPending : lengthOk (s.withPending inputs) = lengthOk s := rfl

theorem frameCheck_withPending : frameCheck (s.withPending inputs) = frameCheck s := rfl

theorem demodAmb_withPending : demodAmb (s.withPending inputs) = demodAmb s := rfl

theorem requestCheck_withPending : requestCheck (s.withPending inputs) = requestCheck s := rfl

theorem accessRefusal_withPending (addr : BitVec 12) (size : AccessSize) :
    accessRefusal (s.withPending inputs) addr size = accessRefusal s addr size := rfl

theorem portRead_withPending (off : Nat) : portRead (s.withPending inputs) off = portRead s off := by
  unfold portRead
  split
  · next r _ => exact readReg_port s r inputs s.replies s.resetAsserted s.powerOns
  · rfl

/-! What a command or a store writes in the state. -/

theorem demodBody_withPending : demodBody (s.withPending inputs) = (demodBody s).withPending inputs := rfl

theorem synth_encodeCanvas_withPending :
    synth (s.withPending inputs) (encodeCanvas (s.withPending inputs)) =
      (synth s (encodeCanvas s)).withPending inputs := rfl

theorem fieldDecode_withPending :
    fieldDecode (s.withPending inputs) = (fieldDecode s).map (·.withPending inputs) := by
  have hfail : fieldFailure (s.withPending inputs) = fieldFailure s := rfl
  unfold fieldDecode
  rw [hfail]
  split <;> rfl

theorem patternDecode_withPending :
    patternDecode (s.withPending inputs) = (patternDecode s).map (·.withPending inputs) := by
  have hscan : (scanOrder (s.withPending inputs)).find? (entryMatches (s.withPending inputs)) =
    (scanOrder s).find? (entryMatches s) := rfl
  unfold patternDecode
  rw [hscan]
  split <;> rfl

theorem decodeMessage_withPending :
    decodeMessage (s.withPending inputs) = (decodeMessage s).map (·.withPending inputs) := by
  have hmode : (s.withPending inputs).mode = s.mode := rfl
  unfold decodeMessage
  rw [hmode]
  split
  · exact fieldDecode_withPending s inputs
  · exact patternDecode_withPending s inputs

theorem decodeTrain_withPending :
    decodeTrain (s.withPending inputs) =
      { decodeTrain s with state := (decodeTrain s).state.withPending inputs } := by
  unfold decodeTrain
  rw [frameCheck_withPending, demodAmb_withPending, ambStrict_withPending, demodBody_withPending,
    decodeMessage_withPending]
  cases frameCheck s with
  | some f => rfl
  | none =>
    cases demodAmb s && s.ambStrict with
    | true => rfl
    | false => cases decodeMessage (demodBody s) <;> rfl

theorem echoDecode_withPending : echoDecode (s.withPending inputs) = (echoDecode s).withPending inputs := by
  unfold echoDecode
  rw [decodeTrain_withPending]
  cases (decodeTrain s).failure <;> rfl

theorem putReg_withPending (r : Reg) (v : Word) :
    putReg (s.withPending inputs) r v = (putReg s r v).withPending inputs := by
  cases r <;> rfl

theorem driveReset_withPending (asserted : Bool) :
    driveReset (s.withPending inputs) asserted = (driveReset s asserted).withPending inputs := by
  have hlevel : (s.withPending inputs).resetAsserted = s.resetAsserted := rfl
  unfold driveReset
  rw [hlevel]
  cases asserted <;> cases s.resetAsserted <;> rfl

end

/-! Each command, and then each input, step by step through its checks. -/

theorem ignoresPending_execB2v (start stop : Nat) : IgnoresPending (execB2v start stop) := by
  intro s inputs
  unfold execB2v
  split
  · rfl
  · split <;> rfl

theorem ignoresPending_execValidate : IgnoresPending execValidate := by
  intro s inputs
  unfold execValidate
  rw [cfgGlobal_withPending, frameCheck_withPending]
  cases cfgGlobal s with
  | some f => rfl
  | none => cases frameCheck s <;> rfl

theorem ignoresPending_execDemod : IgnoresPending execDemod := by
  intro s inputs
  unfold execDemod
  rw [cfgGlobal_withPending, lengthOk_withPending, demodAmb_withPending, ambStrict_withPending, demodBody_withPending]
  cases cfgGlobal s with
  | some f => rfl
  | none =>
    cases lengthOk s with
    | false => rfl
    | true => cases demodAmb s && s.ambStrict <;> rfl

theorem ignoresPending_execBvdecode : IgnoresPending execBvdecode := by
  intro s inputs
  unfold execBvdecode
  rw [cfgAll_withPending, decodeMessage_withPending]
  cases cfgAll s with
  | some f => rfl
  | none => cases decodeMessage s <;> rfl

theorem ignoresPending_execDecode : IgnoresPending execDecode := by
  intro s inputs
  unfold execDecode
  rw [cfgAll_withPending, decodeTrain_withPending]
  cases cfgAll s with
  | some f => rfl
  | none => cases (decodeTrain s).failure <;> rfl

theorem ignoresPending_execReqchk : IgnoresPending execReqchk := by
  intro s inputs
  unfold execReqchk
  rw [cfgAll_withPending, requestCheck_withPending]
  cases cfgAll s with
  | some f => rfl
  | none => cases requestCheck s <;> rfl

theorem ignoresPending_execEncode : IgnoresPending execEncode := by
  intro s inputs
  unfold execEncode
  rw [cfgAll_withPending, requestCheck_withPending, synth_encodeCanvas_withPending, echoDecode_withPending]
  cases cfgAll s with
  | some f => rfl
  | none => cases requestCheck s <;> rfl

/-- R70: a command does not see the inputs behind the write that starts it. -/
theorem ignoresPending_exec (i : Instr) : IgnoresPending (exec i) := by
  cases i with
  | nop => exact fun _ _ => rfl
  | inrange => exact fun _ _ => rfl
  | b2v start stop => exact ignoresPending_execB2v start stop
  | v2b => exact fun _ _ => rfl
  | validate => exact ignoresPending_execValidate
  | demod => exact ignoresPending_execDemod
  | bvdecode => exact ignoresPending_execBvdecode
  | decode => exact ignoresPending_execDecode
  | reqchk => exact ignoresPending_execReqchk
  | encode => exact ignoresPending_execEncode

theorem ignoresPending_runCommand (w : Word) : IgnoresPending (runCommand w) := by
  intro s inputs
  unfold runCommand
  cases decode w with
  | ok i => exact ignoresPending_exec i s inputs
  | error e => rfl

theorem ignoresPending_writeMapped (r : Reg) (v : Word) : IgnoresPending (writeMapped · r v) := by
  intro s inputs
  simp only [writeMapped, writeReg, putReg_withPending]
  split
  · exact ignoresPending_runCommand v _ inputs
  · split <;> rfl

theorem ignoresPending_portWrite (off : Nat) (v : Word) : IgnoresPending (portWrite · off v) := by
  intro s inputs
  show portWrite _ off v = Result.withPending inputs (portWrite s off v)
  unfold portWrite
  cases regAt off with
  | some r => exact ignoresPending_writeMapped r v s inputs
  | none => rfl

/-- R67, R71: an input does not see the inputs behind it. -/
theorem ignoresPending_acceptInput (i : Input) : IgnoresPending (acceptInput · i) := by
  intro s inputs
  cases i with
  | read addr size =>
    simp only [acceptInput, accessRefusal_withPending, portRead_withPending]
    cases accessRefusal s addr size <;> rfl
  | write addr size v =>
    simp only [acceptInput, accessRefusal_withPending]
    cases accessRefusal s addr size with
    | some x => rfl
    | none => exact ignoresPending_portWrite addr.toNat v s inputs
  | resetLine asserted =>
    simp only [acceptInput, driveReset_withPending]
    rfl

/-- Settles O11: both steps take the same input in states that differ in the inputs still to come. -/
theorem laterInputsAreNotSeen : Obligations.LaterInputsAreNotSeen := by
  unfold Obligations.LaterInputsAreNotSeen
  intro s t i rest hp hstep
  rw [step_cons hp] at hstep
  calc step { s with pending := i :: rest }
    _ = acceptInput (State.withPending { s with pending := [] } rest) i := step_cons rfl
    _ = Result.withPending rest (acceptInput { s with pending := [] } i) := ignoresPending_acceptInput i _ rest
    _ = .next { t with pending := rest } := by rw [hstep]; rfl

end Sys2Proof.Machine
end

section
/-! The family of `30_encoding.md`: the fields of a command word (R78), the command a word stands for (R79, R81, R82),
the decoder and the encoder as inverses of each other, and the illegal words (R83). -/

namespace Sys2Proof.Machine

/-! ## The fields of a command word (R78) -/

theorem toNat_opField (w : Word) : (opField w).toNat = w.toNat % 2 ^ 8 := by
  rw [opField, BitVec.extractLsb'_toNat, Nat.shiftRight_zero]

theorem toNat_aField (w : Word) : (aField w).toNat = w.toNat / 2 ^ 8 % 2 ^ 8 := by
  rw [aField, BitVec.extractLsb'_toNat, Nat.shiftRight_eq_div_pow]

theorem toNat_bField (w : Word) : (bField w).toNat = w.toNat / 2 ^ 16 % 2 ^ 8 := by
  rw [bField, BitVec.extractLsb'_toNat, Nat.shiftRight_eq_div_pow]

/-- Nothing stands above the RSV field. -/
theorem toNat_rsvField (w : Word) : (rsvField w).toNat = w.toNat / 2 ^ 24 := by
  rw [rsvField, BitVec.extractLsb'_toNat, Nat.shiftRight_eq_div_pow]
  have := w.isLt
  omega

/-- R78: the four fields are all of the word. -/
theorem toNat_eq_sum_of_fields (w : Word) :
    w.toNat = (rsvField w).toNat * 2 ^ 24 + (bField w).toNat * 2 ^ 16 + (aField w).toNat * 2 ^ 8 +
      (opField w).toNat := by
  rw [toNat_rsvField, toNat_bField, toNat_aField, toNat_opField]
  omega

/-- A byte is 0 exactly when its number is. -/
theorem byte_eq_zero_iff (b : Byte) : b = 0 ↔ b.toNat = 0 := BitVec.toNat_eq

/-! ## The opcode map (R79, R81, R82) -/

theorem opcode_lt_ten (i : Instr) : (opcode i).toNat < 10 := by
  cases i <;> simp [opcode]

/-- R79: B2V is the one command with arguments. -/
theorem takesArguments_eq_false_iff (i : Instr) : takesArguments i = false ↔ (opcode i).toNat ≠ 2 := by
  cases i <;> simp [takesArguments, opcode]

theorem arguments_of_takesArguments_eq_false {i : Instr} (h : takesArguments i = false) : arguments i = (0, 0) := by
  cases i with
  | b2v start stop => cases h
  | _ => rfl

/-- R78: a command is well-formed when its arguments are bytes. -/
theorem wellFormed_iff (i : Instr) : WellFormed i ↔ (arguments i).1 < 2 ^ 8 ∧ (arguments i).2 < 2 ^ 8 := by
  cases i with
  | b2v start stop => simp [WellFormed, wellFormed, argumentFits, arguments, Nat.lt_succ_iff]
  | _ => simp [WellFormed, wellFormed, arguments]

theorem selectCommand_eq_none_iff (op : Byte) (start stop : Nat) :
    selectCommand op start stop = none ↔ 10 ≤ op.toNat := by
  unfold selectCommand
  split
  case h_11 => simp only [imp_false, true_iff] at *; omega
  all_goals simp [*]

/-- R82: an opcode selects the command it is the opcode of, with the word's arguments if it has any. -/
theorem selectCommand_eq_some_iff (op : Byte) (start stop : Nat) (i : Instr) :
    selectCommand op start stop = some i ↔
      opcode i = op ∧ (takesArguments i = true → arguments i = (start, stop)) := by
  constructor
  · intro h
    unfold selectCommand at h
    split at h <;> cases h
    all_goals exact ⟨BitVec.eq_of_toNat_eq (Eq.symm ‹_›), by simp [takesArguments, arguments]⟩
  · rintro ⟨rfl, hargs⟩
    cases i with
    | b2v a b => cases hargs rfl; rfl
    | _ => rfl

/-! ## What a word decodes to (R77 to R82) -/

/-- R78 to R82: a word decodes to a command exactly when its OP is the command's opcode, its A and B are the command's
arguments (0 where it has none), and its RSV is 0. -/
theorem decode_eq_ok_iff (w : Word) (i : Instr) :
    decode w = .ok i ↔
      rsvField w = 0 ∧ opcode i = opField w ∧ arguments i = ((aField w).toNat, (bField w).toNat) := by
  unfold decode
  constructor
  · intro h
    split at h
    next => cases h
    next hrsv =>
      split at h
      next => cases h
      next j hsel =>
        split at h
        next => cases h
        next hstray =>
          cases h
          obtain ⟨hop, hargs⟩ := (selectCommand_eq_some_iff _ _ _ _).1 hsel
          refine ⟨not_not.1 hrsv, hop, ?_⟩
          cases htakes : takesArguments i with
          | true => exact hargs htakes
          | false =>
            have hzero : aField w = 0 ∧ bField w = 0 := by simpa [htakes] using hstray
            rw [arguments_of_takesArguments_eq_false htakes, hzero.1, hzero.2]
            rfl
  · rintro ⟨hrsv, hop, hargs⟩
    have hsel := (selectCommand_eq_some_iff _ _ _ i).2 ⟨hop, fun _ => hargs⟩
    have hstray : ¬(takesArguments i = false ∧ (aField w ≠ 0 ∨ bField w ≠ 0)) := by
      rintro ⟨htakes, hne⟩
      rw [arguments_of_takesArguments_eq_false htakes, Prod.mk.injEq] at hargs
      obtain ⟨ha, hb⟩ := hargs
      exact hne.elim (· ((byte_eq_zero_iff _).2 ha.symm)) (· ((byte_eq_zero_iff _).2 hb.symm))
    rw [if_neg (not_not.2 hrsv), hsel]
    exact if_neg hstray

/-! ## The encoder is the decoder's inverse (R78, R82, R88) -/

/-- A well-formed command's opcode and arguments fit a word. -/
theorem toNat_encode {i : Instr} (h : WellFormed i) :
    (encode i).toNat = (arguments i).2 * 2 ^ 16 + (arguments i).1 * 2 ^ 8 + (opcode i).toNat := by
  obtain ⟨ha, hb⟩ := (wellFormed_iff i).1 h
  have hop := opcode_lt_ten i
  rw [encode, BitVec.toNat_ofNat]
  omega

/-- Settles O1: each field of the encoder's sum reads back, so the word meets what `decode_eq_ok_iff` asks. -/
theorem encodedCommandDecodesBack : Obligations.EncodedCommandDecodesBack := by
  unfold Obligations.EncodedCommandDecodesBack
  intro i h
  obtain ⟨ha, hb⟩ := (wellFormed_iff i).1 h
  have hop := opcode_lt_ten i
  refine (decode_eq_ok_iff _ i).2 ⟨(byte_eq_zero_iff _).2 ?_, BitVec.eq_of_toNat_eq ?_, Prod.ext ?_ ?_⟩
  · rw [toNat_rsvField, toNat_encode h]; omega
  · rw [toNat_opField, toNat_encode h]; omega
  · rw [toNat_aField, toNat_encode h]; omega
  · rw [toNat_bField, toNat_encode h]; omega

/-- Settles O2: a legal word is the sum of its fields, which are the command's opcode and arguments. -/
theorem legalWordIsItsEncoding : Obligations.LegalWordIsItsEncoding := by
  unfold Obligations.LegalWordIsItsEncoding
  intro w i h
  obtain ⟨hrsv, hop, hargs⟩ := (decode_eq_ok_iff w i).1 h
  have hwf : WellFormed i := by
    rw [wellFormed_iff, hargs]
    exact ⟨(aField w).isLt, (bField w).isLt⟩
  refine ⟨hwf, BitVec.eq_of_toNat_eq ?_⟩
  rw [toNat_encode hwf, hargs, hop, toNat_eq_sum_of_fields w, hrsv]
  simp

/-- Settles O3: each word is the encoding of the command it stands for. -/
theorem writtenWordsDecode : Obligations.WrittenWordsDecode :=
  ⟨encodedCommandDecodesBack .nop rfl, encodedCommandDecodesBack .inrange rfl,
    encodedCommandDecodesBack (.b2v 0 15) rfl, encodedCommandDecodesBack (.b2v 255 0) rfl,
    encodedCommandDecodesBack .validate rfl, encodedCommandDecodesBack .bvdecode rfl,
    encodedCommandDecodesBack .encode rfl⟩

/-! ## Illegal words (R80, R81, R83) -/

/-- R83: the words that are no command: an OP above 0x09, a non-zero RSV, or a non-zero A or B outside B2V. -/
def IllegalWord (w : Word) : Prop :=
  10 ≤ w.toNat % 2 ^ 8 ∨ w.toNat / 2 ^ 24 ≠ 0 ∨ (w.toNat % 2 ^ 8 ≠ 2 ∧ w.toNat / 2 ^ 8 % 2 ^ 16 ≠ 0)

theorem illegalWord_iff (w : Word) :
    IllegalWord w ↔ 10 ≤ (opField w).toNat ∨ (rsvField w).toNat ≠ 0 ∨
      ((opField w).toNat ≠ 2 ∧ ((aField w).toNat ≠ 0 ∨ (bField w).toNat ≠ 0)) := by
  rw [IllegalWord, toNat_opField, toNat_rsvField, toNat_aField, toNat_bField]
  omega

/-- R83: the words that are no command are exactly the ones the decoder rejects. -/
theorem exists_decode_eq_ok_iff (w : Word) : (∃ i, decode w = .ok i) ↔ ¬IllegalWord w := by
  rw [illegalWord_iff]
  constructor
  · rintro ⟨i, h⟩
    obtain ⟨hrsv, hop, hargs⟩ := (decode_eq_ok_iff w i).1 h
    rw [← hop]
    rintro (hge | hne | ⟨hb2v, hstray⟩)
    · exact absurd (opcode_lt_ten i) (Nat.not_lt.2 hge)
    · exact hne ((byte_eq_zero_iff _).1 hrsv)
    · have hnone := arguments_of_takesArguments_eq_false ((takesArguments_eq_false_iff i).2 hb2v)
      rw [hargs, Prod.mk.injEq] at hnone
      omega
  · intro hlegal
    cases hsel : selectCommand (opField w) (aField w).toNat (bField w).toNat with
    | none => exact absurd (.inl ((selectCommand_eq_none_iff _ _ _).1 hsel)) hlegal
    | some i =>
      obtain ⟨hop, hargs⟩ := (selectCommand_eq_some_iff _ _ _ _).1 hsel
      refine ⟨i, (decode_eq_ok_iff w i).2 ⟨(byte_eq_zero_iff _).2 (by omega), hop, ?_⟩⟩
      cases htakes : takesArguments i with
      | true => exact hargs htakes
      | false =>
        have hb2v := (takesArguments_eq_false_iff i).1 htakes
        rw [hop] at hb2v
        rw [arguments_of_takesArguments_eq_false htakes, Prod.mk.injEq]
        omega

theorem runCommand_of_illegalWord {w : Word} (h : IllegalWord w) (s : State) :
    runCommand w s = illegalCommand w s := by
  cases hdec : decode w with
  | ok i => exact absurd h ((exists_decode_eq_ok_iff w).1 ⟨i, hdec⟩)
  | error e => rw [runCommand, hdec]

theorem opField_eq_ofNat (w : Word) : opField w = BitVec.ofNat 8 w.toNat :=
  BitVec.eq_of_toNat_eq (by rw [toNat_opField, BitVec.toNat_ofNat])

/-- R83: all an illegal command does is report itself in STATUS. -/
theorem illegalCommand_eq (w : Word) (s : State) :
    illegalCommand w s = .next { s with status := failWord (BitVec.ofNat 8 w.toNat) 0x30 0xFF false } := by
  rw [illegalCommand, fail, failStatus_eq_failWord, opField_eq_ofNat]
  rfl

/-- Settles O4: the write stores the word in CMD, and the decoder rejects exactly the illegal words. -/
theorem illegalWordChangesOnlyStatus : Obligations.IllegalWordChangesOnlyStatus := by
  unfold Obligations.IllegalWordChangesOnlyStatus
  intro s w rest h hr
  refine ⟨fun hillegal => ?_, (exists_decode_eq_ok_iff w).2⟩
  rw [step_write_register (r := .cmd) hr h, writeMapped_cmd, runCommand_of_illegalWord hillegal, illegalCommand_eq]

end Sys2Proof.Machine
end

section
/-! The family of `40_matcher.md`: the bounds at the edges of their ranges (R90, R91), what follows for the test (R94),
and INRANGE, which reports both (R98). -/

namespace Sys2Proof.Machine

/-! ## The bounds at `NUM = 0`, at `ref = 0` and at `NUM ≥ DEN` (R90, R91) -/

@[simp] theorem lowerBound_num_zero (ref : Word) : lowerBound 0 ref = ref.toNat := by
  rw [lowerBound, if_pos (Nat.zero_le _), Nat.sub_zero, Nat.mul_div_cancel _ (by decide)]

@[simp] theorem upperBound_num_zero (ref : Word) : upperBound 0 ref = ref.toNat := by
  rw [upperBound, Nat.add_zero, Nat.mul_div_cancel _ (by decide)]

@[simp] theorem lowerBound_ref_zero (num : Nat) : lowerBound num 0 = 0 :=
  Nat.le_zero.1 (lowerBound_le num 0)

@[simp] theorem upperBound_ref_zero (num : Nat) : upperBound num 0 = 0 := by
  simp [upperBound]

/-- R91: from epsilon 1 on, the lower bound is 0; at epsilon 1 itself by the formula. -/
theorem lowerBound_eq_zero_of_epsDen_le {num : Nat} (h : Config.epsDen ≤ num) (ref : Word) :
    lowerBound num ref = 0 := by
  rw [lowerBound, Nat.sub_eq_zero_of_le h, Nat.mul_zero, Nat.zero_div, ite_self]

/-! ## The test against its bounds (R94) -/

theorem matchesRef_eq_true_iff (num : Nat) (obs ref : Word) :
    matchesRef num obs ref = true ↔ lowerBound num ref ≤ obs.toNat ∧ obs.toNat ≤ upperBound num ref := by
  rw [matchesRef, Bool.and_eq_true, decide_eq_true_eq, decide_eq_true_eq]

theorem matchesRef_eq_false_of_upperBound_lt {num : Nat} {obs ref : Word} (h : upperBound num ref < obs.toNat) :
    matchesRef num obs ref = false :=
  Bool.eq_false_iff.2 fun hm => Nat.not_le.2 h ((matchesRef_eq_true_iff _ _ _).1 hm).2

theorem matchesRef_eq_false_of_lt_lowerBound {num : Nat} {obs ref : Word} (h : obs.toNat < lowerBound num ref) :
    matchesRef num obs ref = false :=
  Bool.eq_false_iff.2 fun hm => Nat.not_le.2 h ((matchesRef_eq_true_iff _ _ _).1 hm).1

/-- Where both bounds are the reference itself, it is the only duration that matches. -/
theorem eq_of_matchesRef_of_bounds_eq {num : Nat} {obs ref : Word} (hlo : lowerBound num ref = ref.toNat)
    (hhi : upperBound num ref = ref.toNat) (h : matchesRef num obs ref = true) : obs = ref := by
  obtain ⟨hle, hge⟩ := (matchesRef_eq_true_iff _ _ _).1 h
  exact BitVec.eq_of_toNat_eq (Nat.le_antisymm (hhi ▸ hge) (hlo ▸ hle))

/-- Settles O25: the bounds enclose the reference, what lies outside them fails, and they meet at `NUM = 0` and at
`ref = 0`. -/
theorem matcherHasItsFiveProperties : Obligations.MatcherHasItsFiveProperties := by
  unfold Obligations.MatcherHasItsFiveProperties
  intro num ref obs
  refine ⟨matchesRef_self num ref, fun habove => ?above, fun hnum hbelow => ?below, ?numZero, ?refZero⟩
  case above => exact matchesRef_eq_false_of_upperBound_lt (Nat.lt_of_succ_le habove.ge)
  case below =>
    have hlo : lowerBound num ref = ref.toNat * (10000 - num) / 10000 := if_pos hnum
    exact matchesRef_eq_false_of_lt_lowerBound (by omega)
  case numZero =>
    rintro rfl
    exact eq_of_matchesRef_of_bounds_eq (lowerBound_num_zero ref) (upperBound_num_zero ref)
  case refZero =>
    rintro rfl
    exact eq_of_matchesRef_of_bounds_eq (lowerBound_ref_zero num) (upperBound_ref_zero num)

/-! ## INRANGE (R98) -/

/-- R10: a value that fits in 32 bits is not saturated. -/
@[simp] theorem sat32_toNat (w : Word) : sat32 w.toNat = w := by
  apply BitVec.eq_of_toNat_eq
  rw [toNat_sat32]
  exact Nat.min_eq_left (Nat.le_pred_of_lt w.isLt)

theorem sat32_zero : sat32 0 = 0 := sat32_toNat 0

/-- R98: all INRANGE does, with the success word of R18 written out. -/
theorem exec_inrange (s : State) :
    exec .inrange s = .next { s with
      lo := sat32 (lowerBound s.eps s.opb)
      hi := sat32 (upperBound s.eps s.opb)
      result := if s.accepts s.opa s.opb then 1 else 0
      status := 0x01FF0002 } := rfl

/-- RESULT is 1 exactly when the test it reports succeeds. -/
theorem ite_eq_one_iff_eq_true (b : Bool) : (if b then 1 else 0 : Word) = 1 ↔ b = true := by
  cases b <;> decide

/-- With the reference 0, only the duration 0 is accepted (R94, item 5). -/
theorem accepts_ref_zero_iff (s : State) (obs : Word) : s.accepts obs 0 = true ↔ obs = 0 := by
  constructor
  · exact eq_of_matchesRef_of_bounds_eq (lowerBound_ref_zero _) (upperBound_ref_zero _)
  · rintro rfl
    exact accepts_self s 0

/-- Settles O24: LO and HI are the saturated bounds, RESULT is the test, and each corner case is an edge of the bounds. -/
theorem inrangeReportsBoundsAndMatch : Obligations.InrangeReportsBoundsAndMatch := by
  unfold Obligations.InrangeReportsBoundsAndMatch
  intro s
  refine ⟨_, exec_inrange s, rfl, toNat_sat32 _, toNat_sat32 _, if_congr (accepts_iff s _ _) rfl rfl,
    fun hself => ?self, fun href => ?refZero, fun hnum => ?numZero, fun hden => ?wideEps⟩
  case self =>
    rw [ite_eq_one_iff_eq_true, hself]
    exact accepts_self s s.opb
  case refZero =>
    rw [ite_eq_one_iff_eq_true, href, lowerBound_ref_zero, upperBound_ref_zero]
    exact ⟨sat32_zero, sat32_zero, accepts_ref_zero_iff s s.opa⟩
  case numZero =>
    rw [hnum, lowerBound_num_zero, upperBound_num_zero, sat32_toNat]
    exact ⟨rfl, rfl⟩
  case wideEps =>
    rw [lowerBound_eq_zero_of_epsDen_le hden]
    exact sat32_zero

end Sys2Proof.Machine
end

section
/-! The family of `41_bitcodec.md`: a window as a map from weights to positions (R100), what B2V and V2B write (R108,
R109), the two round trips (R103, R105) and overlapping placements (R106). -/

namespace Sys2Proof.Machine

/-! ## Where a window keeps the bit of weight `2 ^ i` (R100) -/

/-- R100: the position in the window `[first, last]` of the bit of weight `2 ^ i`. -/
def windowPosition (order : BitOrder) (first last i : Nat) : Nat :=
  match order with
  | .lsbAtStart => first + i
  | .lsbAtEnd => last - i

/-- R100: `b2v` is the sum of the window's bits, each at its weight. -/
theorem b2v_eq_bitSum (order : BitOrder) (vec : BitVec 256) (first last : Nat) :
    b2v order vec first last =
      BitVec.ofNat 32 (bitSum (fun i => vec.getLsbD (windowPosition order first last i)) (last - first + 1)) := by
  cases order <;> rfl

theorem getLsbD_b2v_windowPosition (order : BitOrder) (vec : BitVec 256) (first last i : Nat) :
    (b2v order vec first last).getLsbD i =
      (decide (i < 32) && (decide (i < last - first + 1) && vec.getLsbD (windowPosition order first last i))) := by
  rw [b2v_eq_bitSum, getLsbD_ofNat_bitSum]

/-- R100: a window of at most 32 bits is read exactly. -/
theorem toNat_b2v (order : BitOrder) (vec : BitVec 256) {first last : Nat} (hw : last - first + 1 ≤ 32) :
    (b2v order vec first last).toNat =
      ∑ i ∈ Finset.range (last - first + 1), (vec.getLsbD (windowPosition order first last i)).toNat * 2 ^ i := by
  have hlt := bitSum_lt (fun i => vec.getLsbD (windowPosition order first last i)) (last - first + 1)
  rw [b2v_eq_bitSum, BitVec.toNat_ofNat, ← bitSum_eq_sum]
  exact Nat.mod_eq_of_lt (Nat.lt_of_lt_of_le hlt (Nat.pow_le_pow_right (by decide) hw))

/-- A window that holds each bit of `v` at its weight, and is wide enough for `v`, reads as `v`. -/
theorem b2v_eq_of_window_bits {order : BitOrder} {v : Word} {vec : BitVec 256} {first last : Nat}
    (hv : minLen v ≤ last - first + 1)
    (hbits : ∀ i, i < last - first + 1 → vec.getLsbD (windowPosition order first last i) = v.getLsbD i) :
    b2v order vec first last = v := by
  apply BitVec.eq_of_getLsbD_eq
  intro i hi
  rw [getLsbD_b2v_windowPosition, decide_eq_true hi, Bool.true_and]
  by_cases hin : i < last - first + 1
  · rw [hbits i hin, decide_eq_true hin, Bool.true_and]
  · rw [decide_eq_false hin, Bool.false_and, getLsbD_of_minLen_le (by omega)]

/-! ## B2V (R108) -/

theorem fieldOrder_eq_lsbAtStart {s : State} (h : s.ctrl.getLsbD 1 = false) : s.fieldOrder = .lsbAtStart := by
  rw [State.fieldOrder, h]; rfl

theorem fieldOrder_eq_lsbAtEnd {s : State} (h : s.ctrl.getLsbD 1 = true) : s.fieldOrder = .lsbAtEnd :=
  if_pos h

/-- R108: B2V of a window of at most 32 bits, with the success word of R18 written out. -/
theorem exec_b2v_of_window {a b : Nat} (hab : a ≤ b) (hw : b - a + 1 ≤ 32) (s : State) :
    exec (.b2v a b) s = .next { s with result := b2v s.fieldOrder s.bv a b, status := 0x02FF0002 } := by
  obtain ⟨hbad, _⟩ | ⟨_, _, hok⟩ := execB2v_cases a b s
  · omega
  · exact hok

/-- R108: B2V of a reversed or too wide window, with the failure word of R18 written out. -/
theorem exec_b2v_of_badWindow {a b : Nat} (h : b < a ∨ 32 < b - a + 1) (s : State) :
    exec (.b2v a b) s = .next { s with status := 0x02FF2300 } := by
  obtain ⟨_, hfail⟩ | ⟨hab, hw, _⟩ := execB2v_cases a b s
  · exact hfail
  · omega

/-- Settles O26: RESULT is the window's sum, whose positions are those of the selected order. -/
theorem b2vReadsTheWindow : Obligations.B2vReadsTheWindow := by
  unfold Obligations.B2vReadsTheWindow
  refine fun s a b => ⟨fun hab hw => ⟨_, exec_b2v_of_window hab hw s, rfl, fun horder => ?start, fun horder => ?stop⟩,
    fun hbad => exec_b2v_of_badWindow hbad s⟩
  case start =>
    rw [fieldOrder_eq_lsbAtStart horder]
    exact toNat_b2v .lsbAtStart s.bv hw
  case stop =>
    rw [fieldOrder_eq_lsbAtEnd horder]
    exact toNat_b2v .lsbAtEnd s.bv hw

/-! ## V2B (R109) -/

/-- R101: the length of the value 0. -/
@[simp] theorem minLen_zero : minLen 0 = 1 := rfl

theorem toNat_ofNat_minLen (v : Word) : (BitVec.ofNat 32 (minLen v)).toNat = minLen v := by
  have hle := minLen_le v
  rw [BitVec.toNat_ofNat]
  exact Nat.mod_eq_of_lt (by omega)

/-- R109: the word V2B makes of the sequence; the sequence has at most 32 elements. -/
theorem getLsbD_ofNat_bitSum_seqBit (order : BitOrder) (v : Word) {i : Nat} (hi : i < 32) :
    (BitVec.ofNat 32 (bitSum (seqBit order v) (minLen v))).getLsbD i =
      (decide (i < minLen v) && seqBit order v i) := by
  rw [getLsbD_ofNat_bitSum, decide_eq_true hi, Bool.true_and]

/-- R109: with FIELD_ORDER = 0 the word of the sequence is the value. -/
theorem ofNat_bitSum_seqBit_lsbAtStart (v : Word) :
    BitVec.ofNat 32 (bitSum (seqBit .lsbAtStart v) (minLen v)) = v := by
  apply BitVec.eq_of_getLsbD_eq
  intro i hi
  rw [getLsbD_ofNat_bitSum_seqBit _ _ hi]
  by_cases hin : i < minLen v
  · rw [decide_eq_true hin, Bool.true_and]; rfl
  · rw [decide_eq_false hin, Bool.false_and, getLsbD_of_minLen_le (by omega)]

/-- R109: all V2B does, with the success word of R18 written out. -/
theorem exec_v2b (s : State) :
    exec .v2b s = .next { s with
      result := BitVec.ofNat 32 (bitSum (seqBit s.fieldOrder s.opa) (minLen s.opa))
      result2 := BitVec.ofNat 32 (minLen s.opa)
      status := 0x03FF0002 } := rfl

/-- Settles O27: RESULT2 is the length, which the powers of two around OPA fix, and RESULT holds the sequence. -/
theorem v2bWritesTheMinimalSequence : Obligations.V2bWritesTheMinimalSequence := by
  unfold Obligations.V2bWritesTheMinimalSequence
  refine fun s => ⟨_, exec_v2b s, rfl, fun hzero => ?zero, fun hne => ?nonzero, fun horder => ?start,
    fun horder i hi => ?stop⟩
  case zero =>
    rw [hzero, minLen_zero]
    rfl
  case nonzero =>
    rw [toNat_ofNat_minLen]
    exact ⟨two_pow_le_of_ne_zero hne, lt_two_pow_minLen s.opa⟩
  case start =>
    rw [fieldOrder_eq_lsbAtStart horder]
    exact ofNat_bitSum_seqBit_lsbAtStart s.opa
  case stop =>
    rw [fieldOrder_eq_lsbAtEnd horder, toNat_ofNat_minLen]
    exact getLsbD_ofNat_bitSum_seqBit .lsbAtEnd s.opa hi

/-! ## The round trip of a sequence (R103) -/

/-- The window `[0, len(v) − 1]` reads the sequence of `v` back in the order of the weights. -/
theorem seqBit_windowPosition (order : BitOrder) {v : Word} {i : Nat} (hi : i < minLen v) :
    seqBit order v (windowPosition order 0 (minLen v - 1) i) = v.getLsbD i := by
  cases order with
  | lsbAtStart => simp only [seqBit, windowPosition, Nat.zero_add]
  | lsbAtEnd => simp only [seqBit, windowPosition, Nat.sub_sub_self (Nat.le_sub_one_of_lt hi)]

theorem windowPosition_lt_minLen (order : BitOrder) {v : Word} {i : Nat} (hi : i < minLen v) :
    windowPosition order 0 (minLen v - 1) i < minLen v := by
  cases order <;> simp only [windowPosition] <;> omega

/-- Settles O28: both orders read the sequence at the positions it was laid at. -/
theorem sequenceReadsBackAsItsValue : Obligations.SequenceReadsBackAsItsValue := by
  unfold Obligations.SequenceReadsBackAsItsValue
  intro order v vec hlaid
  have hwidth : minLen v - 1 - 0 + 1 = minLen v := Nat.sub_add_cancel (minLen_pos v)
  refine b2v_eq_of_window_bits hwidth.ge fun i hi => ?_
  rw [hwidth] at hi
  rw [hlaid _ (windowPosition_lt_minLen order hi), seqBit_windowPosition order hi]

/-! ## The round trip of a placement (R105) -/

theorem windowPosition_mem (order : BitOrder) {first last i : Nat} (hw : first ≤ last) (hi : i < last - first + 1) :
    first ≤ windowPosition order first last i ∧ windowPosition order first last i ≤ last := by
  cases order <;> simp only [windowPosition] <;> omega

/-- R105: a placement sets each bit of `v` at its weight in the window. -/
theorem getLsbD_place_windowPosition (order : BitOrder) {v : Word} {first last i : Nat} (canvas : BitVec 256)
    (hw : first ≤ last) (hl : last < 256) (hv : minLen v ≤ last - first + 1) (hi : i < last - first + 1) :
    (place order v first last canvas).getLsbD (windowPosition order first last i) =
      (canvas.getLsbD (windowPosition order first last i) || v.getLsbD i) := by
  rw [getLsbD_place_window order canvas _ hw hl hv, decide_eq_true (windowPosition_mem order hw hi), Bool.true_and]
  congr 1
  cases order with
  | lsbAtStart => simp only [windowPosition, Nat.add_sub_cancel_left]
  | lsbAtEnd => simp only [windowPosition, Nat.sub_sub_self (show i ≤ last by omega)]

/-- Settles O29: in a cleared window the placed bits are those of the value, each at its weight; the four position
clauses name the weights. -/
theorem placedValueReadsBack : Obligations.PlacedValueReadsBack := by
  unfold Obligations.PlacedValueReadsBack
  intro order v first last canvas hw hl _ hv hclear
  have hbits : ∀ i, i < last - first + 1 →
      (place order v first last canvas).getLsbD (windowPosition order first last i) = v.getLsbD i := by
    intro i hi
    obtain ⟨hge, hle⟩ := windowPosition_mem order hw hi
    rw [getLsbD_place_windowPosition order canvas hw hl hv hi, hclear _ hge hle, Bool.false_or]
  refine ⟨b2v_eq_of_window_bits hv hbits, ?start, ?stop⟩
  case start =>
    rintro rfl
    refine ⟨fun i hi => hbits i (by omega), fun j hj hjl => ?_⟩
    have hpos : windowPosition .lsbAtStart first last (j - first) = j := Nat.add_sub_cancel' (by omega)
    rw [← hpos, hbits _ (by omega), getLsbD_of_minLen_le (by omega)]
  case stop =>
    rintro rfl
    refine ⟨fun i hi => ?_, fun j hfj hj => ?_⟩
    · have hpos : windowPosition .lsbAtEnd first last (minLen v - 1 - i) = last + i + 1 - minLen v := by
        simp only [windowPosition]; omega
      rw [← hpos, hbits _ (by omega)]
    · have hpos : windowPosition .lsbAtEnd first last (last - j) = j := Nat.sub_sub_self (by omega)
      rw [← hpos, hbits _ (by omega), getLsbD_of_minLen_le (by omega)]

/-! ## Overlapping placements (R104, R106) -/

/-- R104: a placement adds to the canvas what it places on an empty one. -/
theorem place_eq_or_place_zero (order : BitOrder) (v : Word) (first last : Nat) (canvas : BitVec 256) :
    place order v first last canvas = canvas ||| place order v first last 0 := by
  apply BitVec.eq_of_getLsbD_eq
  intro j _
  have hempty : (0 : BitVec 256).getLsbD j = false := BitVec.getLsbD_zero
  rw [BitVec.getLsbD_or, getLsbD_place order v first last canvas, getLsbD_place order v first last 0, hempty,
    Bool.false_or]

/-- Settles O30: each placement is the OR of its canvas with a vector of its own. -/
theorem placementsCombineByOr : Obligations.PlacementsCombineByOr := by
  unfold Obligations.PlacementsCombineByOr
  intro order v v' first last first' last' canvas
  rw [place_eq_or_place_zero order v' first' last' (place order v first last canvas),
    place_eq_or_place_zero order v first last canvas]

end Sys2Proof.Machine
end

section
/-! The family of `42_framer.md`: which configuration error a message command reports (R115), the order of the frame
checks and what they read (R121, R126), pair classification (R123), DEMOD (R127) and a train of the machine's own
(R131). -/

namespace Sys2Proof.Machine

/-! ## A configuration that fails its checks (R115, R116) -/

/-- R116: the four commands that check the whole configuration, when that check fails. -/
theorem exec_of_cfgAll_eq_some {s : State} {f : Failure} (h : cfgAll s = some f) :
    exec .bvdecode s = .next { s with
        status := failWord 0x06 f.code.byte f.field false, msgStat := noMessageStat f.code } ∧
      exec .decode s = .next { s with
        status := failWord 0x07 f.code.byte f.field false, msgStat := noMessageStat f.code } ∧
      exec .reqchk s = .next { s with status := failWord 0x08 f.code.byte f.field false } ∧
      exec .encode s = .next { s with status := failWord 0x09 f.code.byte f.field false } := by
  simp only [← failStatus_eq_failWord]
  refine ⟨?_, ?_, ?_, ?_⟩
  · rw [exec, execBvdecode, h]; rfl
  · rw [exec, execDecode, h]; rfl
  · rw [exec, execReqchk, h]; rfl
  · rw [exec, execEncode, h]; rfl

theorem cfgAll_of_legal_geometry {s : State} (hg : GeometryLegal s) : cfgAll s = cfgMode s := by
  rw [cfgAll, (cfgGlobal_eq_none_iff s).2 hg]

theorem cfgField_of_illegal {n : Nat} {d : FieldDesc} {k : Fin 8} (h : ¬WindowLegal n d) :
    cfgField n d k = some (.at .configError k) := by
  cases hc : cfgField n d k with
  | none => exact absurd ((cfgField_eq_none_iff n d k).1 hc) h
  | some f => rw [cfgField_eq_some hc]

/-- R115: the search over the fields stops at the first illegal one. -/
theorem cfgMode_of_first_illegal_field {s : State} {k : Fin 8} (hg : GeometryLegal s) (hm : s.mode = .fields)
    (hk : ¬WindowLegal (bodyBits s) (s.desc k)) (hlt : ∀ j, j < k → WindowLegal (bodyBits s) (s.desc j)) :
    cfgMode s = some (.at .configError k) := by
  rw [cfgMode, hm, bvLen_of_legal hg]
  exact findSome?_finRange_of_first (cfgField_of_illegal hk) fun j hj => (cfgField_eq_none_iff _ _ j).2 (hlt j hj)

/-- R115: a table too large in either dimension names no field. -/
theorem cfgMode_of_illegal_table {s : State} (hm : s.mode = .patterns) (ht : ¬TableLegal s) :
    cfgMode s = some geometryError := by
  rw [cfgMode, hm]
  by_cases hrows : s.ncmd > Config.ptC
  · exact if_pos hrows
  · have hcols : s.nstate > Config.ptS := by
      by_contra hle
      exact ht ⟨Nat.not_lt.1 hrows, Nat.not_lt.1 hle⟩
    exact (if_neg hrows).trans (if_pos hcols)

/-! ## After the configuration checks no failure is ConfigError (R173) -/

theorem ErrCode.byte_ne_configError {c : ErrCode} (h : c ≠ .configError) : c.byte ≠ 0x31 := by
  cases c with
  | configError => exact absurd rfl h
  | _ => decide

theorem fieldFailure_code_ne_configError {s : State} {k : Fin 8} {f : Failure} (h : fieldFailure s k = some f) :
    f.code ≠ .configError := by
  have hk : ¬FieldDecodes s k := fun hd => by
    rw [(fieldFailure_eq_none_iff s k).2 hd] at h; cases h
  obtain ⟨c, hc, hf⟩ := fieldFailure_of_not_decodes hk
  obtain rfl : f = .at c k := Option.some.inj (h.symm.trans hf)
  rintro rfl
  revert hc
  unfold fieldErrorCode
  split <;> decide

theorem decodeMessage_error_code_ne_configError {s : State} {f : Failure} (h : decodeMessage s = .error f) :
    f.code ≠ .configError := by
  unfold decodeMessage at h
  split at h
  · unfold fieldDecode at h
    split at h
    · next g hg =>
      obtain rfl : g = f := Except.error.inj h
      obtain ⟨k, _, hk⟩ := List.exists_of_findSome?_eq_some hg
      exact fieldFailure_code_ne_configError hk
    · cases h
  · rw [patternDecode_eq_error h]; decide

theorem frameCheck_code_ne_configError {s : State} {f : Failure} (h : frameCheck s = some f) :
    f.code ≠ .configError := by
  obtain rfl | rfl | rfl | rfl := frameCheck_eq_some h <;> decide

theorem decodeTrain_failure_code_ne_configError {s : State} {f : Failure} (h : (decodeTrain s).failure = some f) :
    f.code ≠ .configError := by
  obtain ⟨g, hg, ht⟩ | ⟨_, _, _, ht⟩ | ⟨_, _, g, hg, ht⟩ | ⟨_, _, _, _, ht⟩ := decodeTrain_cases s <;> rw [ht] at h
  · exact Option.some.inj h ▸ frameCheck_code_ne_configError hg
  · exact Option.some.inj h ▸ by decide
  · exact Option.some.inj h ▸ decodeMessage_error_code_ne_configError hg
  · cases h

theorem missingField_eq_some {s : State} {k : Fin 8} {f : Failure} (h : missingField s k = some f) :
    f = .at .missingField k := by
  unfold missingField at h
  split at h
  · exact (Option.some.inj h).symm
  · cases h

theorem conflictFailure_eq_some {s : State} {c : Fin 4} {f : Failure} (h : conflictFailure s c = some f) :
    f = .at .conflictingFields (s.conflict c).fa := by
  unfold conflictFailure at h
  split at h
  · exact (Option.some.inj h).symm
  · cases h

/-- R141: a field request fails in one of the three passes. -/
theorem fieldCheck_code_ne_configError {s : State} {f : Failure} (h : fieldCheck s = some f) :
    f.code ≠ .configError := by
  unfold fieldCheck at h
  split at h
  · next g hg =>
    obtain ⟨k, _, hk⟩ := List.exists_of_findSome?_eq_some hg
    rw [← Option.some.inj h, missingField_eq_some hk]
    exact ErrCode.noConfusion
  · split at h
    · next g hg =>
      obtain ⟨k, _, hk⟩ := List.exists_of_findSome?_eq_some hg
      rw [← Option.some.inj h, outOfRangeField_eq_some hk]
      exact ErrCode.noConfusion
    · obtain ⟨c, _, hc⟩ := List.exists_of_findSome?_eq_some h
      rw [conflictFailure_eq_some hc]
      exact ErrCode.noConfusion

theorem patternCheck_code_ne_configError {s : State} {f : Failure} (h : patternCheck s = some f) :
    f.code ≠ .configError := by
  unfold patternCheck at h
  split at h
  · exact Option.some.inj h ▸ ErrCode.noConfusion
  · split at h
    · exact Option.some.inj h ▸ ErrCode.noConfusion
    · cases h

theorem requestCheck_code_ne_configError {s : State} {f : Failure} (h : requestCheck s = some f) :
    f.code ≠ .configError := by
  unfold requestCheck at h
  split at h
  · exact fieldCheck_code_ne_configError h
  · exact patternCheck_code_ne_configError h

/-- The command ends with a STATUS that reports no ConfigError. -/
def NoConfigError (r : Result) : Prop := ∃ t, r = .next t ∧ errCode t.status ≠ 0x31

theorem noConfigError_finish (op : Byte) (amb : Bool) (t : State) : NoConfigError (finish op amb t) :=
  ⟨_, rfl, by rw [errCode_okStatus]; decide⟩

theorem noConfigError_fail (op : Byte) (amb : Bool) {f : Failure} (t : State) (h : f.code ≠ .configError) :
    NoConfigError (fail op amb f t) :=
  ⟨_, rfl, by rw [errCode_failStatus]; exact ErrCode.byte_ne_configError h⟩

theorem noConfigError_noMessage (op : Byte) (amb : Bool) {f : Failure} (t : State) (h : f.code ≠ .configError) :
    NoConfigError (noMessage op amb f t) :=
  noConfigError_fail op amb _ h

/-- R115: with every configuration check passed, the commands that make them end in success or in another error. -/
theorem exec_noConfigError_of_cfgAll {s : State} (hc : cfgAll s = none) {i : Instr}
    (hi : i = .bvdecode ∨ i = .decode ∨ i = .reqchk ∨ i = .encode) : NoConfigError (exec i s) := by
  have hne : ∀ f, cfgAll s ≠ some f := fun f hf => Option.some_ne_none f (hf.symm.trans hc)
  obtain rfl | rfl | rfl | rfl := hi
  · show NoConfigError (execBvdecode s)
    obtain ⟨f, hf, _⟩ | ⟨_, _, _, hf, h⟩ | ⟨_, _, _, _, h⟩ := execBvdecode_cases s
    · exact absurd hf (hne f)
    · rw [h]; exact noConfigError_noMessage _ _ _ (decodeMessage_error_code_ne_configError hf)
    · rw [h]; exact noConfigError_finish _ _ _
  · show NoConfigError (execDecode s)
    obtain ⟨f, hf, _⟩ | ⟨_, _, _, hf, h⟩ | ⟨_, _, _, h⟩ := execDecode_cases s
    · exact absurd hf (hne f)
    · rw [h]; exact noConfigError_noMessage _ _ _ (decodeTrain_failure_code_ne_configError hf)
    · rw [h]; exact noConfigError_finish _ _ _
  · show NoConfigError (execReqchk s)
    obtain ⟨f, hf, _⟩ | ⟨_, _, _, hf, h⟩ | ⟨_, _, _, h⟩ := execReqchk_cases s
    · exact absurd hf (hne f)
    · rw [h]; exact noConfigError_fail _ _ _ (requestCheck_code_ne_configError hf)
    · rw [h]; exact noConfigError_finish _ _ _
  · show NoConfigError (execEncode s)
    obtain ⟨f, hf, _⟩ | ⟨_, _, _, hf, h⟩ | ⟨_, _, _, h⟩ := execEncode_cases s
    · exact absurd hf (hne f)
    · rw [h]; exact noConfigError_fail _ _ _ (requestCheck_code_ne_configError hf)
    · rw [h]; exact noConfigError_finish _ _ _

/-- Settles O32: with a legal geometry the configuration check is `cfg_mode()`, whose failure all four commands report;
past it no check reports ConfigError. -/
theorem illegalLayoutNamesItsFirstField : Obligations.IllegalLayoutNamesItsFirstField := by
  unfold Obligations.IllegalLayoutNamesItsFirstField
  intro s hg
  have hall := cfgAll_of_legal_geometry hg
  refine ⟨fun k hm hk hlt => ?field, fun hm ht => ?table, fun hml i hi => ?legal⟩
  case field =>
    exact exec_of_cfgAll_eq_some (f := .at .configError k)
      (hall.trans (cfgMode_of_first_illegal_field hg hm hk hlt))
  case table => exact exec_of_cfgAll_eq_some (f := geometryError) (hall.trans (cfgMode_of_illegal_table hm ht))
  case legal => exact exec_noConfigError_of_cfgAll ((cfgAll_eq_none_iff s).2 ⟨hg, hml⟩) hi

/-! ## The frame checks in their order (R126) -/

section
variable {s : State}

theorem frameCheck_of_length (h : s.count ≠ s.trainLength) : frameCheck s = some (.plain .lengthMismatch) :=
  if_pos (mt (lengthOk_iff s).1 h)

theorem frameCheck_of_header (hl : s.count = s.trainLength) (h : ¬HeaderInWindow s) :
    frameCheck s = some (.plain .headerMismatch) := by
  rw [frameCheck, if_neg (not_not.2 ((lengthOk_iff s).2 hl)), if_pos (mt (headerOk_iff s).1 h)]

theorem frameCheck_of_footer (hg : GeometryLegal s) (hl : s.count = s.trainLength) (hh : HeaderInWindow s)
    (h : ¬FooterInWindow s) : frameCheck s = some (.plain .footerMismatch) := by
  rw [frameCheck, if_neg (not_not.2 ((lengthOk_iff s).2 hl)), if_neg (not_not.2 ((headerOk_iff s).2 hh)),
    if_pos (mt (footerOk_iff hg).1 h)]

theorem frameCheck_of_guard (hg : GeometryLegal s) (hl : s.count = s.trainLength) (hh : HeaderInWindow s)
    (hf : FooterInWindow s) (h : ¬GuardClear s) : frameCheck s = some (.plain .startSequenceMismatch) := by
  rw [frameCheck, if_neg (not_not.2 ((lengthOk_iff s).2 hl)), if_neg (not_not.2 ((headerOk_iff s).2 hh)),
    if_neg (not_not.2 ((footerOk_iff hg).2 hf)), if_pos (mt (guardOk_iff s).1 h)]

/-- R126: VALIDATE reports the frame check that fails. -/
theorem exec_validate_of_frameCheck_eq_some (hg : GeometryLegal s) {f : Failure} (h : frameCheck s = some f) :
    exec .validate s = .next { s with status := failWord 0x04 f.code.byte f.field false } := by
  rw [exec, execValidate, (cfgGlobal_eq_none_iff s).2 hg, h, ← failStatus_eq_failWord]
  rfl

/-- R126: VALIDATE of a framed train. -/
theorem exec_validate_of_frameCheck_eq_none (hg : GeometryLegal s) (h : frameCheck s = none) :
    exec .validate s = .next { s with status := 0x04FF0002 } := by
  rw [exec, execValidate, (cfgGlobal_eq_none_iff s).2 hg, h]
  rfl

theorem exec_validate_of_illegal_geometry (hg : ¬GeometryLegal s) :
    exec .validate s = .next { s with status := 0x04FF3100 } := by
  obtain ⟨h, _⟩ := exec_of_illegal_geometry hg
  exact h

theorem exec_demod_of_illegal_geometry (hg : ¬GeometryLegal s) :
    exec .demod s = .next { s with status := 0x05FF3100 } := by
  obtain ⟨_, h, _⟩ := exec_of_illegal_geometry hg
  exact h

end

/-- Settles O33: each clause fixes which frame check is the first to fail. -/
theorem validateReportsTheFirstFailedCheck : Obligations.ValidateReportsTheFirstFailedCheck := by
  unfold Obligations.ValidateReportsTheFirstFailedCheck
  intro s
  refine ⟨exec_validate_of_illegal_geometry, fun hg hl => ?length, fun hg hl hh => ?header, fun hg hl hh hf => ?footer,
    fun hg hl hh hf hc => ?guard, fun hg hl hh hf hc => ?framed⟩
  case length => exact exec_validate_of_frameCheck_eq_some hg (frameCheck_of_length hl)
  case header => exact exec_validate_of_frameCheck_eq_some hg (frameCheck_of_header hl hh)
  case footer => exact exec_validate_of_frameCheck_eq_some hg (frameCheck_of_footer hg hl hh hf)
  case guard => exact exec_validate_of_frameCheck_eq_some hg (frameCheck_of_guard hg hl hh hf hc)
  case framed => exact exec_validate_of_frameCheck_eq_none hg ((frameCheck_eq_none_iff hg).2 ⟨hl, hh, hf, hc⟩)

/-! ## What the frame checks read (R121) -/

/-- R121: index `p` of the train lies in the header, the footer or a guard pair. -/
def InFrame (s : State) (p : Nat) : Prop :=
  p < s.headerLength ∨ s.trainLength - s.footerLength ≤ p ∨
    (s.headerLength ≤ p ∧ p < s.headerLength + 2 * s.guardLength)

/-- R121: the durations `v` are those of PULSE at every index a frame check reads. -/
def AgreesOnFrame (s : State) (v : Vector Word 512) : Prop :=
  ∀ p, p < s.trainLength → InFrame s p → v[p]? = s.pulse[p]?

/-- The state with other durations in PULSE. -/
def State.withPulse (s : State) (v : Vector Word 512) : State := { s with pulse := v }

section
variable {s : State} {v : Vector Word 512}

theorem pulseAt_withPulse (hv : AgreesOnFrame s v) {p : Nat}
    (hp : p < s.trainLength) (hin : InFrame s p) : (s.withPulse v).pulseAt p = s.pulseAt p :=
  congrArg (·.getD 0) (hv p hp hin)

/-- R118: the header check reads the header's durations only. -/
theorem headerInWindow_withPulse (hg : GeometryLegal s) (hv : AgreesOnFrame s v) :
    HeaderInWindow (s.withPulse v) ↔ HeaderInWindow s := by
  obtain ⟨hh, hf, _, hle, _, _⟩ := hg
  have h0 := pulseAt_withPulse hv (p := 0) (by omega) (.inl (by omega))
  have h1 : s.headerLength = 2 → (s.withPulse v).pulseAt 1 = s.pulseAt 1 := fun h2 =>
    pulseAt_withPulse hv (by omega) (.inl (by omega))
  show Accepts s.eps ((s.withPulse v).pulseAt 0) s.hdrD0 ∧
    (s.headerLength = 2 → Accepts s.eps ((s.withPulse v).pulseAt 1) s.hdrD1) ↔ _
  rw [h0]
  exact and_congr_right fun _ => forall_congr' fun h2 => by rw [h1 h2]

/-- R119: the footer check reads the footer's durations only. -/
theorem footerInWindow_withPulse (hg : GeometryLegal s) (hv : AgreesOnFrame s v) :
    FooterInWindow (s.withPulse v) ↔ FooterInWindow s := by
  obtain ⟨hh, hf, _, hle, _, _⟩ := hg
  have h0 := pulseAt_withPulse hv (p := s.trainLength - s.footerLength) (by omega) (.inr (.inl (by omega)))
  have h1 : s.footerLength = 2 → (s.withPulse v).pulseAt (s.trainLength - 1) = s.pulseAt (s.trainLength - 1) :=
    fun h2 => pulseAt_withPulse hv (by omega) (.inr (.inl (by omega)))
  show Accepts s.eps ((s.withPulse v).pulseAt (s.trainLength - s.footerLength)) s.ftrD0 ∧
    (s.footerLength = 2 → Accepts s.eps ((s.withPulse v).pulseAt (s.trainLength - 1)) s.ftrD1) ↔ _
  rw [h0]
  exact and_congr_right fun _ => forall_congr' fun h2 => by rw [h1 h2]

/-- R120: the guard check reads the guard's pairs only. -/
theorem guardClear_withPulse (hg : GeometryLegal s) (hv : AgreesOnFrame s v) :
    GuardClear (s.withPulse v) ↔ GuardClear s := by
  have ht := trainLength_eq hg
  obtain ⟨_, _, _, _, _, hguard⟩ := hg
  refine forall_congr' fun i => forall_congr' fun (hi : i < s.guardLength) => not_congr ?_
  have h0 := pulseAt_withPulse hv (p := s.headerLength + 2 * i) (by omega) (.inr (.inr (by omega)))
  have h1 := pulseAt_withPulse hv (p := s.headerLength + 2 * i + 1) (by omega) (.inr (.inr (by omega)))
  show Accepts s.eps ((s.withPulse v).pulseAt (s.headerLength + 2 * i)) s.highD0 ∧
    Accepts s.eps ((s.withPulse v).pulseAt (s.headerLength + 2 * i + 1)) s.highD1 ↔ _
  rw [h0, h1]

/-- R121: the frame checks read the header, the footer and the guard's pairs only. -/
theorem frameCheck_withPulse (hg : GeometryLegal s) (hv : AgreesOnFrame s v) :
    frameCheck (s.withPulse v) = frameCheck s := by
  have hheader : headerOk (s.withPulse v) = headerOk s := by
    rw [Bool.eq_iff_iff, headerOk_iff, headerOk_iff, headerInWindow_withPulse hg hv]
  have hfooter : footerOk (s.withPulse v) = footerOk s := by
    rw [Bool.eq_iff_iff, footerOk_iff (s := s.withPulse v) hg, footerOk_iff hg, footerInWindow_withPulse hg hv]
  have hguard : guardOk (s.withPulse v) = guardOk s := by
    rw [Bool.eq_iff_iff, guardOk_iff, guardOk_iff, guardClear_withPulse hg hv]
  have hlength : lengthOk (s.withPulse v) = lengthOk s := rfl
  rw [frameCheck, frameCheck, hlength, hheader, hfooter, hguard]

end

/-- R121: no frame check reads BV, the field layout, the state map or the pattern memory. -/
theorem frameCheck_otherBuffers (s : State) (bv' : BitVec 256) (fd' : Vector FieldDesc 8) (sm' : Vector MapEntry 8)
    (pt' : Vector (BitVec 256) 32) :
    frameCheck { s with bv := bv', fd := fd', sm := sm', pt := pt' } = frameCheck s := rfl

/-- R126: VALIDATE's outcome is that of the geometry check and the frame checks. -/
theorem exec_validate_status_congr {s t : State} (hgeometry : GeometryLegal t ↔ GeometryLegal s)
    (hframe : GeometryLegal s → frameCheck t = frameCheck s) :
    ∃ u u', exec .validate s = .next u ∧ exec .validate t = .next u' ∧ u'.status = u.status := by
  by_cases hg : GeometryLegal s
  · have hg' := hgeometry.2 hg
    cases hf : frameCheck s with
    | some f =>
      exact ⟨_, _, exec_validate_of_frameCheck_eq_some hg hf,
        exec_validate_of_frameCheck_eq_some hg' ((hframe hg).trans hf), rfl⟩
    | none =>
      exact ⟨_, _, exec_validate_of_frameCheck_eq_none hg hf,
        exec_validate_of_frameCheck_eq_none hg' ((hframe hg).trans hf), rfl⟩
  · exact ⟨_, _, exec_validate_of_illegal_geometry hg, exec_validate_of_illegal_geometry (mt hgeometry.1 hg), rfl⟩

/-- Settles O34: the geometry check reads registers only, and the frame checks agree on the two states. -/
theorem validateReadsNoPayload : Obligations.ValidateReadsNoPayload := by
  unfold Obligations.ValidateReadsNoPayload
  intro s pulse' bv' fd' sm' pt' hv
  have hgeometry : GeometryLegal { s with pulse := pulse', bv := bv', fd := fd', sm := sm', pt := pt' } ↔
      GeometryLegal s := Iff.rfl
  refine exec_validate_status_congr hgeometry fun hg => ?_
  calc frameCheck { s with pulse := pulse', bv := bv', fd := fd', sm := sm', pt := pt' }
      = frameCheck (s.withPulse pulse') := frameCheck_otherBuffers (s.withPulse pulse') bv' fd' sm' pt'
    _ = frameCheck s := frameCheck_withPulse hg hv

/-! ## Pair classification (R122, R123) -/

/-- R94: a duration lies in its own window. -/
theorem accepts_refl (num : Nat) (ref : Word) : Accepts num ref ref :=
  (matchesRef_iff num ref ref).1 (matchesRef_self num ref)

theorem clsBit_eq_false_iff (s : State) (i : Nat) : clsBit s i = false ↔ ¬PairHigh s i := by
  rw [← clsBit_iff, Bool.not_eq_true]

/-- R122: a pair is not ambiguous exactly when it matches one of the waveforms. -/
theorem clsAmb_eq_false_iff (s : State) (i : Nat) :
    clsAmb s i = false ↔ PairHigh s i ∨ PairMatches s i s.lowD0 s.lowD1 := by
  rw [← Bool.not_eq_true, clsAmb_iff, not_and_or, not_not, not_not]

/-- Settles O35: each corner case decides which of the two waveforms the pair matches. -/
theorem pairsClassifyAsTheRuleLists : Obligations.PairsClassifyAsTheRuleLists := by
  unfold Obligations.PairsClassifyAsTheRuleLists
  intro s i d0 d1
  refine ⟨fun h0 h1 => ?high, fun h0 h1 => ?low, fun h0 h1 hm => ?equal, fun _ hl0 _ hh1 => ?highThenLow,
    fun _ hh0 _ hl1 => ?lowThenHigh⟩
  case high =>
    have hhigh : PairMatches s i s.highD0 s.highD1 := ⟨h0 ▸ accepts_refl _ d0, h1 ▸ accepts_refl _ d1⟩
    exact ⟨(clsBit_iff s i).2 hhigh, (clsAmb_eq_false_iff s i).2 (.inl hhigh)⟩
  case low =>
    have hlow : PairMatches s i s.lowD0 s.lowD1 := ⟨h0 ▸ accepts_refl _ d0, h1 ▸ accepts_refl _ d1⟩
    refine ⟨?_, (clsAmb_eq_false_iff s i).2 (.inr hlow)⟩
    rw [← h0, ← h1]
    exact clsBit_iff s i
  case equal =>
    rw [clsBit_iff]
    rw [h0, h1, or_self] at hm
    exact hm
  case highThenLow =>
    have hhigh : ¬PairHigh s i := fun ⟨_, h⟩ => hh1 h
    exact ⟨(clsBit_eq_false_iff s i).2 hhigh, (clsAmb_iff s i).2 ⟨hhigh, fun ⟨h, _⟩ => hl0 h⟩⟩
  case lowThenHigh =>
    have hhigh : ¬PairHigh s i := fun ⟨h, _⟩ => hh0 h
    exact ⟨(clsBit_eq_false_iff s i).2 hhigh, (clsAmb_iff s i).2 ⟨hhigh, fun ⟨_, h⟩ => hl1 h⟩⟩

/-! ## DEMOD (R127) -/

section
variable {s : State}

theorem exec_demod_of_length (hg : GeometryLegal s) (hl : s.count ≠ s.trainLength) :
    exec .demod s = .next { s with status := 0x05FF0100 } := by
  show execDemod s = _
  obtain ⟨hn, _⟩ | ⟨_, _, h⟩ | ⟨_, he, _⟩ | ⟨_, he, _⟩ := execDemod_cases s
  · exact absurd hg hn
  · exact h
  · exact absurd he hl
  · exact absurd he hl

/-- R127: a train of the right length is demodulated whole, and AMB_STRICT decides only how STATUS reports it. -/
theorem exec_demod_of_checked (hg : GeometryLegal s) (hl : s.count = s.trainLength) :
    exec .demod s = .next { s with
      bv := demodVector s
      ambPos := (demodBody s).ambPos
      status := if demodAmb s = true ∧ s.ambStrict = true then failWord 0x05 0x12 0xFF true
        else okWord 0x05 (demodAmb s) } := by
  show execDemod s = _
  obtain ⟨hn, _⟩ | ⟨_, hne, _⟩ | ⟨_, _, ha, h⟩ | ⟨_, _, ha, h⟩ := execDemod_cases s
  · exact absurd hg hn
  · exact absurd hl hne
  · rw [h, if_pos ha]; rfl
  · rw [h, if_neg ha, ← okStatus_eq_okWord]; rfl

/-- R127: every bit of the demodulated vector, those behind the body too. -/
theorem getLsbD_demodVector_iff (hg : GeometryLegal s) (i : Nat) :
    (demodVector s).getLsbD i = true ↔ i < bodyBits s ∧ PairHigh s i := by
  rw [getLsbD_demodVector, bvLen_of_legal hg, Bool.and_eq_true, decide_eq_true_eq, clsBit_iff]

theorem demodAmb_eq_false (hg : GeometryLegal s) (h : ¬SomeAmbiguous s) : demodAmb s = false :=
  Bool.eq_false_iff.2 (mt (demodAmb_iff hg).1 h)

/-- R127: AMB_POS when no pair is ambiguous. -/
theorem demodBody_ambPos_of_unambiguous (hg : GeometryLegal s) (h : ¬SomeAmbiguous s) :
    (demodBody s).ambPos = 0xFFFFFFFF := by
  have hnone : firstAmbiguous s = none :=
    Option.isNone_iff_eq_none.1 (Option.isSome_eq_false_iff.1 (demodAmb_eq_false hg h))
  rw [demodBody, hnone]
  rfl

/-- R127: AMB_POS is the lowest ambiguous index, which its 32 bits hold. -/
theorem demodBody_ambPos_of_first (hg : GeometryLegal s) {i : Nat} (hi : i < bodyBits s) (ha : PairAmbiguous s i)
    (hlt : ∀ j, j < i → ¬PairAmbiguous s j) : (demodBody s).ambPos.toNat = i := by
  have hle := bodyBits_le hg
  rw [demodBody, (firstAmbiguous_eq_some_iff hg i).2 ⟨hi, ha, hlt⟩]
  exact Nat.mod_eq_of_lt (by omega)

end

/-- Settles O36: what `demod_body()` writes, and the STATUS that reports it. -/
theorem demodClassifiesTheBody : Obligations.DemodClassifiesTheBody := by
  unfold Obligations.DemodClassifiesTheBody
  intro s
  refine ⟨exec_demod_of_illegal_geometry, exec_demod_of_length, fun hg hl =>
    ⟨_, exec_demod_of_checked hg hl, rfl, fun i _ => getLsbD_demodVector_iff hg i, fun hnone => ?clear,
      fun i hi ha hlt => ?ambiguous⟩⟩
  case clear =>
    refine ⟨demodBody_ambPos_of_unambiguous hg hnone, ?_⟩
    show (if demodAmb s = true ∧ s.ambStrict = true then _ else okWord 0x05 (demodAmb s)) = _
    rw [demodAmb_eq_false hg hnone]
    exact if_neg fun h => Bool.false_ne_true h.1
  case ambiguous =>
    rw [(demodAmb_iff hg).2 ⟨i, hi, ha⟩]
    exact ⟨demodBody_ambPos_of_first hg hi ha hlt, if_congr (and_iff_right rfl) rfl rfl⟩

/-! ## A train of the machine's own (R128, R131) -/

/-- R128: the two durations written for a canvas bit. -/
def waveform (s : State) (b : Bool) : Word × Word := if b then (s.highD0, s.highD1) else (s.lowD0, s.lowD1)

section
variable {s : State}

theorem headerInWindow_synth (hg : GeometryLegal s) (canvas : BitVec 256) : HeaderInWindow (synth s canvas) := by
  obtain ⟨hh, _⟩ := id hg
  have h0 : (synth s canvas).pulseAt 0 = s.hdrD0 := by
    rw [pulseAt_synth hg, trainPulse, if_pos (by omega), if_pos rfl]
  have h1 : s.headerLength = 2 → (synth s canvas).pulseAt 1 = s.hdrD1 := fun h2 => by
    rw [pulseAt_synth hg, trainPulse, if_pos (by omega), if_neg (by decide)]
  refine ⟨?_, fun h2 => ?_⟩
  · rw [h0]; exact accepts_refl _ _
  · rw [h1 h2]; exact accepts_refl _ _

theorem footerInWindow_synth (hg : GeometryLegal s) (canvas : BitVec 256) : FooterInWindow (synth s canvas) := by
  have ht := trainLength_eq hg
  obtain ⟨_, hf, _⟩ := id hg
  have h0 : (synth s canvas).pulseAt (s.trainLength - s.footerLength) = s.ftrD0 := by
    rw [pulseAt_synth hg, trainPulse, if_neg (by omega), if_neg (by omega), if_pos (by omega), if_pos rfl]
  have h1 : s.footerLength = 2 → (synth s canvas).pulseAt (s.trainLength - 1) = s.ftrD1 := fun h2 => by
    rw [pulseAt_synth hg, trainPulse, if_neg (by omega), if_neg (by omega), if_pos (by omega), if_neg (by omega)]
  refine ⟨?_, fun h2 => ?_⟩
  · show Accepts _ ((synth s canvas).pulseAt (s.trainLength - s.footerLength)) _
    rw [h0]; exact accepts_refl _ _
  · show Accepts _ ((synth s canvas).pulseAt (s.trainLength - 1)) _
    rw [h1 h2]; exact accepts_refl _ _

/-- R128: the synthesised train holds a waveform at each body pair. -/
theorem pulseAt_synth_pair (hg : GeometryLegal s) (canvas : BitVec 256) {i : Nat} (hi : i < bodyBits s) :
    (synth s canvas).pulseAt (s.headerLength + 2 * i) = (waveform s (canvas.getLsbD i)).1 ∧
      (synth s canvas).pulseAt (s.headerLength + 2 * i + 1) = (waveform s (canvas.getLsbD i)).2 := by
  have hindex0 : (s.headerLength + 2 * i - s.headerLength) / 2 = i := by omega
  have hindex1 : (s.headerLength + 2 * i + 1 - s.headerLength) / 2 = i := by omega
  have hfirst : (s.headerLength + 2 * i - s.headerLength) % 2 = 0 := by omega
  have hsecond : ¬(s.headerLength + 2 * i + 1 - s.headerLength) % 2 = 0 := by omega
  constructor
  · rw [pulseAt_synth hg, trainPulse, if_neg (by omega), if_pos (by omega), hindex0, if_pos hfirst, if_pos hfirst,
      waveform, apply_ite Prod.fst]
  · rw [pulseAt_synth hg, trainPulse, if_neg (by omega), if_pos (by omega), hindex1, if_neg hsecond,
      if_neg hsecond, waveform, apply_ite Prod.snd]

/-- A body pair of the synthesised train matches what its waveform matches. -/
theorem pairMatches_synth_iff (hg : GeometryLegal s) (canvas : BitVec 256) {i : Nat} (hi : i < bodyBits s)
    (d0 d1 : Word) :
    PairMatches (synth s canvas) i d0 d1 ↔
      Accepts s.eps (waveform s (canvas.getLsbD i)).1 d0 ∧ Accepts s.eps (waveform s (canvas.getLsbD i)).2 d1 := by
  obtain ⟨h0, h1⟩ := pulseAt_synth_pair hg canvas hi
  rw [← h0, ← h1]
  exact Iff.rfl

/-- R131: a 1 of the canvas demodulates to 1. -/
theorem clsBit_synth_of_one (hg : GeometryLegal s) {canvas : BitVec 256} {i : Nat} (hi : i < bodyBits s)
    (h : canvas.getLsbD i = true) : clsBit (synth s canvas) i = true := by
  rw [clsBit_iff]
  refine (pairMatches_synth_iff hg canvas hi s.highD0 s.highD1).2 ?_
  rw [h]
  exact ⟨accepts_refl _ _, accepts_refl _ _⟩

/-- R131: a 0 of the canvas demodulates to 0 exactly when the waveforms are separable. -/
theorem clsBit_synth_of_zero (hg : GeometryLegal s) {canvas : BitVec 256} {i : Nat} (hi : i < bodyBits s)
    (h : canvas.getLsbD i = false) : clsBit (synth s canvas) i = false ↔ Separable s := by
  have hpair := pairMatches_synth_iff hg canvas hi s.highD0 s.highD1
  rw [h] at hpair
  rw [clsBit_eq_false_iff]
  exact not_congr hpair

/-- R131: no pair of the synthesised train is ambiguous. -/
theorem clsAmb_synth (hg : GeometryLegal s) (canvas : BitVec 256) {i : Nat} (hi : i < bodyBits s) :
    clsAmb (synth s canvas) i = false := by
  rw [clsAmb_eq_false_iff]
  cases hb : canvas.getLsbD i with
  | true => exact .inl ((clsBit_iff _ i).1 (clsBit_synth_of_one hg hi hb))
  | false =>
    refine .inr ((pairMatches_synth_iff hg canvas hi s.lowD0 s.lowD1).2 ?_)
    rw [hb]
    exact ⟨accepts_refl _ _, accepts_refl _ _⟩

/-- R131: with separable waveforms the classified bits are the canvas. -/
theorem clsBit_synth_of_separable (hg : GeometryLegal s) (hsep : Separable s) (canvas : BitVec 256) {i : Nat}
    (hi : i < bodyBits s) : clsBit (synth s canvas) i = canvas.getLsbD i := by
  cases hb : canvas.getLsbD i with
  | true => exact clsBit_synth_of_one hg hi hb
  | false => exact (clsBit_synth_of_zero hg hi hb).2 hsep

theorem getLsbD_demodVector_synth (hg : GeometryLegal s) (hsep : Separable s) (canvas : BitVec 256) {i : Nat}
    (hi : i < bodyBits s) : (demodVector (synth s canvas)).getLsbD i = canvas.getLsbD i := by
  have hlen : (synth s canvas).bvLen = bodyBits s := bvLen_of_legal (s := synth s canvas) hg
  rw [getLsbD_demodVector, hlen, decide_eq_true hi, Bool.true_and, clsBit_synth_of_separable hg hsep canvas hi]

/-- R131: with separable waveforms the guard passes exactly when the canvas is 0 in its positions. -/
theorem guardOk_synth_iff (hg : GeometryLegal s) (hsep : Separable s) (canvas : BitVec 256) :
    guardOk (synth s canvas) = true ↔ ∀ i, i < s.guardLength → canvas.getLsbD i = false := by
  obtain ⟨_, _, _, _, _, hguard⟩ := id hg
  rw [guardOk_iff]
  refine forall_congr' fun i => forall_congr' fun (hi : i < s.guardLength) => ?_
  rw [← clsBit_eq_false_iff, clsBit_synth_of_separable hg hsep canvas (by omega)]

end

/-- Settles O37: the train holds the configured header and footer, and at each body pair the waveform of its bit. -/
theorem synthesisedTrainDemodulatesToItsCanvas : Obligations.SynthesisedTrainDemodulatesToItsCanvas := by
  unfold Obligations.SynthesisedTrainDemodulatesToItsCanvas
  intro s canvas hg
  refine ⟨⟨?length, ?header, ?footer⟩, fun i => clsAmb_synth hg canvas, fun i => clsBit_synth_of_one hg,
    fun i => clsBit_synth_of_zero hg, fun hsep =>
    ⟨fun i => getLsbD_demodVector_synth hg hsep canvas, guardOk_synth_iff hg hsep canvas⟩⟩
  case length => exact (lengthOk_iff _).2 (count_synth s canvas)
  case header => exact (headerOk_iff _).2 (headerInWindow_synth hg canvas)
  case footer => exact (footerOk_iff (s := synth s canvas) hg).2 (footerInWindow_synth hg canvas)

end Sys2Proof.Machine
end

section
/-! The family of `43_fieldlayout.md`: the state map (R136), field decode and the failure that ends it (R137 to R140),
the request check (R141 to R144), the canvas of a request (R146 to R148) and the field round trip (R149). -/

namespace Sys2Proof.Machine

/-! ## The state map (R136) -/

/-- A search of a vector takes the lowest element that passes the test. -/
theorem find?_toList_of_first {α : Type} {n : Nat} {v : Vector α n} {p : α → Bool} {j : Fin n} (hj : p v[j] = true)
    (hlt : ∀ i, i < j → p v[i] = false) : v.toList.find? p = some v[j] := by
  rw [List.find?_eq_some_iff_getElem]
  refine ⟨hj, j, by simp, by simp, fun i hi => ?_⟩
  have hfalse := hlt ⟨i, by omega⟩ hi
  simpa using hfalse

theorem find?_toList_of_none {α : Type} {n : Nat} {v : Vector α n} {p : α → Bool} (h : ∀ j : Fin n, p v[j] = false) :
    v.toList.find? p = none := by
  rw [List.find?_eq_none]
  intro e he
  obtain ⟨i, hi, rfl⟩ := List.mem_iff_getElem.1 he
  have hfalse := h ⟨i, by simpa using hi⟩
  simpa using hfalse

/-- R37: a semantic code is the low half of SM_SEM. -/
theorem MapEntry.code_eq_ofNat (e : MapEntry) : e.code = BitVec.ofNat 32 (e.sem.toNat % 2 ^ 16) := by
  apply BitVec.eq_of_toNat_eq
  rw [MapEntry.code, BitVec.toNat_setWidth, BitVec.extractLsb'_toNat, Nat.shiftRight_zero, BitVec.toNat_ofNat]

theorem MapEntry.code_eq_iff (e : MapEntry) (w : Word) : e.code = w ↔ e.sem.toNat % 2 ^ 16 = w.toNat := by
  have hlt : e.sem.toNat % 2 ^ 16 < 2 ^ 32 := by omega
  rw [e.code_eq_ofNat, BitVec.toNat_eq, BitVec.toNat_ofNat, Nat.mod_eq_of_lt hlt]

/-- R136: an entry that `raw2sem` matches. -/
theorem rawMatches_iff (e : MapEntry) (w : Word) :
    (e.valid && decide (e.raw = w)) = true ↔ e.sem.getLsbD 31 = true ∧ e.raw = w := by
  rw [Bool.and_eq_true, decide_eq_true_eq, MapEntry.valid]

/-- R136: an entry that `sem2raw` matches. -/
theorem codeMatches_iff (e : MapEntry) (w : Word) :
    (e.valid && decide (e.code = w)) = true ↔ e.sem.getLsbD 31 = true ∧ e.sem.toNat % 2 ^ 16 = w.toNat := by
  rw [Bool.and_eq_true, decide_eq_true_eq, MapEntry.valid, e.code_eq_iff]

/-- Settles O38: each direction of the map is a search of the entries in ascending order. -/
theorem stateMapTakesTheLowestEntry : Obligations.StateMapTakesTheLowestEntry := by
  unfold Obligations.StateMapTakesTheLowestEntry
  refine fun s w => ⟨fun j hvalid hraw hlt => ?rawFound, fun hnone => ?rawAbsent, fun j hvalid hcode hlt => ?codeFound,
    fun hnone => ?codeAbsent⟩
  case rawFound =>
    rw [rawToSem, find?_toList_of_first ((rawMatches_iff _ w).2 ⟨hvalid, hraw⟩) fun i hi =>
      Bool.eq_false_iff.2 (mt (rawMatches_iff _ w).1 (hlt i hi)), Option.map_some, MapEntry.code_eq_ofNat]
  case rawAbsent =>
    rw [rawToSem, find?_toList_of_none fun j => Bool.eq_false_iff.2 (mt (rawMatches_iff _ w).1 (hnone j)),
      Option.map_none]
  case codeFound =>
    rw [semToRaw, find?_toList_of_first ((codeMatches_iff _ w).2 ⟨hvalid, hcode⟩) fun i hi =>
      Bool.eq_false_iff.2 (mt (codeMatches_iff _ w).1 (hlt i hi)), Option.map_some]
  case codeAbsent =>
    rw [semToRaw, find?_toList_of_none fun j => Bool.eq_false_iff.2 (mt (codeMatches_iff _ w).1 (hnone j)),
      Option.map_none]

/-! ## The message of a decode and the failure that ends it (R137 to R140) -/

theorem getLsbD_fieldMessageStat (p : Byte) (i : Nat) :
    (fieldMessageStat p).getLsbD i = (decide (i = 31) || p.getLsbD i) := by
  rw [fieldMessageStat, BitVec.getLsbD_or, BitVec.getLsbD_shiftLeft, BitVec.getLsbD_setWidth, BitVec.getLsbD_one]
  obtain hlt | rfl | hgt := Nat.lt_trichotomy i 31
  · simp [hlt, show i < 32 by omega, show i ≠ 31 by omega]
  · simp
  · have hp : p.getLsbD i = false := BitVec.getLsbD_of_ge p i (by omega)
    simp [hp, show ¬i < 32 by omega, show i ≠ 31 by omega]

/-- R138: VALID is set, PRESENT marks the message fields and every other bit is 0. -/
theorem isFieldMessageStat_presentMask (s : State) : IsFieldMessageStat s (fieldMessageStat (presentMask s)) := by
  have hhigh : ∀ i, 8 ≤ i → (presentMask s).getLsbD i = false := fun i hi => BitVec.getLsbD_of_ge _ _ hi
  refine ⟨?valid, ?pattern, BitVec.eq_of_getLsbD_eq fun i hi => ?reserved, fun k => ?present⟩
  case valid => rw [getLsbD_fieldMessageStat]; rfl
  case pattern => rw [getLsbD_fieldMessageStat, hhigh 30 (by decide)]; rfl
  case reserved =>
    rw [BitVec.getLsbD_extractLsb', getLsbD_fieldMessageStat, hhigh _ (by omega),
      decide_eq_false (show ¬8 + i = 31 by omega)]
    simp
  case present =>
    have hk : k.val ≠ 31 := by omega
    rw [getLsbD_fieldMessageStat, decide_eq_false hk, Bool.false_or, getLsbD_presentMask]

/-- R138: the message a successful field decode leaves. -/
theorem message_of_fieldDecode_eq_ok {s t : State} (h : fieldDecode s = .ok t) :
    IsFieldMessageStat s t.msgStat ∧ ∀ k : Fin 8, t.msg[k] = decodedValue s k := by
  obtain ⟨hdecodes, rfl⟩ := fieldDecode_eq_ok h
  refine ⟨isFieldMessageStat_presentMask s, fun k => ?_⟩
  rw [← fieldValue_of_decodes (hdecodes k)]
  simp

/-- R140: the first field that does not decode ends the decode, with the code of its kind and its number. -/
theorem fieldDecode_of_first_failing {s : State} {k : Fin 8} (hlt : ∀ j, j < k → FieldDecodes s j)
    (hk : ¬FieldDecodes s k) : ∃ c : ErrCode, c.byte = fieldErrorCode s k ∧ fieldDecode s = .error (.at c k) := by
  obtain ⟨c, hc, hf⟩ := fieldFailure_of_not_decodes hk
  refine ⟨c, hc, ?_⟩
  rw [fieldDecode, findSome?_finRange_of_first hf fun j hj => (fieldFailure_eq_none_iff s j).2 (hlt j hj)]

/-- R140: a decode in which some field fails ends with the failure of such a field. -/
theorem fieldDecode_of_not_decodes {s : State} (h : ¬∀ k, FieldDecodes s k) :
    ∃ (k : Fin 8) (c : ErrCode), ¬FieldDecodes s k ∧ c.byte = fieldErrorCode s k ∧
      fieldDecode s = .error (.at c k) := by
  cases hfirst : (List.finRange 8).findSome? (fieldFailure s) with
  | none =>
    refine absurd (fun k => (fieldFailure_eq_none_iff s k).1 ?_) h
    exact List.findSome?_eq_none_iff.1 hfirst k (List.mem_finRange k)
  | some f =>
    obtain ⟨k, _, hf⟩ := List.exists_of_findSome?_eq_some hfirst
    have hk : ¬FieldDecodes s k := fun hd => by
      rw [(fieldFailure_eq_none_iff s k).2 hd] at hf
      cases hf
    obtain ⟨c, hc, hat⟩ := fieldFailure_of_not_decodes hk
    refine ⟨k, c, hk, hc, ?_⟩
    rw [fieldDecode, hfirst, Option.some.inj (hf.symm.trans hat)]

section
variable {s : State} {k : Fin 8}

theorem decodedValue_of_value (hk : (s.desc k).kind = .value) : decodedValue s k = fieldRaw s k := by
  rw [decodedValue, hk]

theorem decodedValue_of_sync (hk : (s.desc k).kind = .sync) : decodedValue s k = (s.desc k).const := by
  rw [decodedValue, hk]

theorem decodedValue_of_state (hk : (s.desc k).kind = .state) :
    decodedValue s k = (rawToSem s (fieldRaw s k)).getD 0 := by
  rw [decodedValue, hk]

end

/-- R173: no other error has InvalidState's number. -/
theorem ErrCode.eq_invalidState_of_byte {c : ErrCode} (h : c.byte = 0x11) : c = .invalidState := by
  revert h
  cases c <;> decide

theorem noMessageStat_eq_noMessageWord (c : ErrCode) : noMessageStat c = noMessageWord c.byte := by
  cases c <;> rfl

theorem modeLegal_of_layoutLegal {s : State} (hm : s.mode = .fields) (hl : LayoutLegal s) : ModeLegal s :=
  ⟨fun _ => hl, fun hp => by rw [hm] at hp; cases hp⟩

theorem decodeMessage_of_fields {s : State} (hm : s.mode = .fields) : decodeMessage s = fieldDecode s := by
  rw [decodeMessage, hm]

/-- R165: how the steps of DECODE end after the message decode of the demodulated vector. -/
def endOfDecode (s : State) : Except Failure State → TrainDecode
  | .error f => ⟨demodBody s, demodAmb s, some f⟩
  | .ok t => ⟨t, demodAmb s, none⟩

section
variable {s : State}

/-- R164: BVDECODE of a vector that decodes, with the success word of R18 written out. -/
theorem exec_bvdecode_of_message (hg : GeometryLegal s) (hm : ModeLegal s) {t : State} (h : decodeMessage s = .ok t) :
    exec .bvdecode s = .next { t with status := 0x06FF0002 } := by
  rw [exec, execBvdecode, (cfgAll_eq_none_iff s).2 ⟨hg, hm⟩, h]
  rfl

/-- R162, R164: BVDECODE of a vector that does not decode. -/
theorem exec_bvdecode_of_no_message (hg : GeometryLegal s) (hm : ModeLegal s) {f : Failure}
    (h : decodeMessage s = .error f) :
    exec .bvdecode s = .next { s with
      msgStat := noMessageWord f.code.byte
      status := failWord 0x06 f.code.byte f.field false } := by
  rw [exec, execBvdecode, (cfgAll_eq_none_iff s).2 ⟨hg, hm⟩, h, ← failStatus_eq_failWord,
    ← noMessageStat_eq_noMessageWord]
  rfl

/-- R165: of a framed train that AMB_STRICT does not stop, DECODE decodes the demodulated vector. -/
theorem decodeTrain_of_demodulated (hg : GeometryLegal s) (hf : TrainFramed s)
    (ha : ¬(SomeAmbiguous s ∧ s.ctrl.getLsbD 0 = true)) :
    decodeTrain s = endOfDecode s (decodeMessage (demodBody s)) := by
  have hframe := (frameCheck_eq_none_iff hg).2 hf
  rw [← demodAmb_iff hg] at ha
  obtain ⟨f, hsome, _⟩ | ⟨_, hamb, hstrict, _⟩ | ⟨_, _, f, hd, h⟩ | ⟨_, _, t, hd, h⟩ := decodeTrain_cases s
  · rw [hframe] at hsome; cases hsome
  · exact absurd ⟨hamb, hstrict⟩ ha
  · rw [h, hd]; rfl
  · rw [h, hd]; rfl

/-- R162, R165: DECODE of a train whose demodulated vector does not decode. -/
theorem exec_decode_of_no_message (hg : GeometryLegal s) (hm : ModeLegal s) (hf : TrainFramed s)
    (ha : ¬(SomeAmbiguous s ∧ s.ctrl.getLsbD 0 = true)) {f : Failure} (h : decodeMessage (demodBody s) = .error f) :
    exec .decode s = .next { demodBody s with
      msgStat := noMessageWord f.code.byte
      status := failStatus 0x07 (demodAmb s) f } := by
  rw [exec, execDecode, (cfgAll_eq_none_iff s).2 ⟨hg, hm⟩, decodeTrain_of_demodulated hg hf ha, h,
    ← noMessageStat_eq_noMessageWord]
  rfl

end

/-- Settles O39: the message is that of a field decode of BV in which every field decodes. -/
theorem bvdecodeWritesTheFieldMessage : Obligations.BvdecodeWritesTheFieldMessage := by
  unfold Obligations.BvdecodeWritesTheFieldMessage
  intro s hg hm hl hdecodes
  have hdecode := fieldDecode_of_decodes hdecodes
  obtain ⟨hstat, hmsg⟩ := message_of_fieldDecode_eq_ok hdecode
  exact ⟨_, exec_bvdecode_of_message hg (modeLegal_of_layoutLegal hm hl) ((decodeMessage_of_fields hm).trans hdecode),
    rfl, hstat, hmsg⟩

/-- Settles O40: both commands end with the failure of the field decode, of BV or of the demodulated vector. -/
theorem firstFailingFieldEndsTheDecode : Obligations.FirstFailingFieldEndsTheDecode := by
  unfold Obligations.FirstFailingFieldEndsTheDecode
  intro s k hg hm hl
  have hml := modeLegal_of_layoutLegal hm hl
  refine ⟨fun hlt hk => ?bvdecode, fun hf ha hlt hk => ?decode⟩
  case bvdecode =>
    obtain ⟨c, hc, hdecode⟩ := fieldDecode_of_first_failing hlt hk
    rw [exec_bvdecode_of_no_message hg hml ((decodeMessage_of_fields hm).trans hdecode), ← hc]
    rfl
  case decode =>
    obtain ⟨c, hc, hdecode⟩ := fieldDecode_of_first_failing hlt hk
    have hc' : c.byte = fieldErrorCode s k := hc
    have hmessage : decodeMessage (demodBody s) = .error (.at c k) :=
      (decodeMessage_of_fields (s := demodBody s) hm).trans hdecode
    obtain ⟨_, hfield, hcode, _, _, hok, _⟩ := failStatus_fields 0x07 (demodAmb s) (.at c k)
    refine ⟨_, exec_decode_of_no_message hg hml hf ha hmessage, ?_, hcode.trans hc', hfield, hok⟩
    rw [← hc']
    rfl

/-! ## The first error of a request (R141 to R144) -/

theorem outOfRangeField_of_valueOutOfRange {s : State} {k : Fin 8} (h : ValueOutOfRange s k) :
    outOfRangeField s k = some (.at .outOfRange k) := by
  cases hf : outOfRangeField s k with
  | none => exact absurd h ((outOfRangeField_eq_none_iff s k).1 hf)
  | some f => rw [outOfRangeField_eq_some hf]

theorem conflictFailure_of_conflicts {s : State} {c : Fin 4} (h : Conflicts s c) :
    conflictFailure s c = some (.at .conflictingFields (s.conflict c).fa) :=
  if_pos ((conflictFires_iff s c).2 h)

section
variable {s : State}

/-- R142: the first pass. -/
theorem fieldCheck_of_first_missing {k : Fin 8} (hk : Missing s k) (hlt : ∀ j, j < k → ¬Missing s j) :
    fieldCheck s = some (.at .missingField k) := by
  rw [fieldCheck, findSome?_finRange_of_first (missingField_of_missing hk) fun j hj =>
    (missingField_eq_none_iff s j).2 (hlt j hj)]

/-- R143: the second pass, when the first finds nothing. -/
theorem fieldCheck_of_first_outOfRange (hmissing : ∀ j, ¬Missing s j) {k : Fin 8} (hk : ValueOutOfRange s k)
    (hlt : ∀ j, j < k → ¬ValueOutOfRange s j) : fieldCheck s = some (.at .outOfRange k) := by
  rw [fieldCheck, List.findSome?_eq_none_iff.2 fun j _ => (missingField_eq_none_iff s j).2 (hmissing j)]
  simp only [findSome?_finRange_of_first (outOfRangeField_of_valueOutOfRange hk) fun j hj =>
    (outOfRangeField_eq_none_iff s j).2 (hlt j hj)]

/-- R144: the third pass, when the first two find nothing. -/
theorem fieldCheck_of_first_conflict (hmissing : ∀ j, ¬Missing s j) (hrange : ∀ j, ¬ValueOutOfRange s j) {c : Fin 4}
    (hc : Conflicts s c) (hlt : ∀ d, d < c → ¬Conflicts s d) :
    fieldCheck s = some (.at .conflictingFields (s.conflict c).fa) := by
  rw [fieldCheck, List.findSome?_eq_none_iff.2 fun j _ => (missingField_eq_none_iff s j).2 (hmissing j)]
  have hpass : (List.finRange 8).findSome? (outOfRangeField s) = none :=
    List.findSome?_eq_none_iff.2 fun j _ => (outOfRangeField_eq_none_iff s j).2 (hrange j)
  simp only [hpass]
  exact findSome?_finRange_of_first (conflictFailure_of_conflicts hc) fun d hd =>
    (conflictFailure_eq_none_iff s d).2 (hlt d hd)

theorem requestCheck_of_fields (hm : s.mode = .fields) : requestCheck s = fieldCheck s := by
  rw [requestCheck, hm]

/-- R167, R168: the two commands that check the request, when that check fails. -/
theorem exec_of_requestCheck_eq_some (hg : GeometryLegal s) (hm : ModeLegal s) {f : Failure}
    (h : requestCheck s = some f) :
    exec .reqchk s = .next { s with status := failWord 0x08 f.code.byte f.field false } ∧
      exec .encode s = .next { s with status := failWord 0x09 f.code.byte f.field false } := by
  have hc := (cfgAll_eq_none_iff s).2 ⟨hg, hm⟩
  simp only [← failStatus_eq_failWord]
  constructor
  · rw [exec, execReqchk, hc, h]; rfl
  · rw [exec, execEncode, hc, h]; rfl

/-- R167: REQCHK of a request that passes. -/
theorem exec_reqchk_of_requestPasses (hg : GeometryLegal s) (hm : ModeLegal s) (hr : RequestPasses s) :
    exec .reqchk s = .next { s with status := 0x08FF0002 } := by
  rw [exec, execReqchk, (cfgAll_eq_none_iff s).2 ⟨hg, hm⟩, (requestCheck_eq_none_iff s).2 hr]
  rfl

/-- R168: ENCODE of a request that passes. -/
theorem exec_encode_of_requestPasses (hg : GeometryLegal s) (hm : ModeLegal s) (hr : RequestPasses s) :
    exec .encode s = .next { echoDecode (synth s (encodeCanvas s)) with status := 0x09FF0002 } := by
  rw [exec, execEncode, (cfgAll_eq_none_iff s).2 ⟨hg, hm⟩, (requestCheck_eq_none_iff s).2 hr]
  rfl

theorem requestPasses_of_requestLegal (hm : s.mode = .fields) (hr : RequestLegal s) : RequestPasses s :=
  ⟨fun _ => hr, fun hp => by rw [hm] at hp; cases hp⟩

end

/-- Settles O41: each clause fixes the pass that finds the first failure, and both commands report it. -/
theorem reqchkReportsTheFirstRequestError : Obligations.ReqchkReportsTheFirstRequestError := by
  unfold Obligations.ReqchkReportsTheFirstRequestError
  intro s hg hm hl
  have hml := modeLegal_of_layoutLegal hm hl
  have hcheck := requestCheck_of_fields hm
  refine ⟨fun k hk hlt => ?missing, fun k hmissing hk hlt => ?range, fun c hmissing hrange hc hlt => ?conflict,
    fun hr => exec_reqchk_of_requestPasses hg hml (requestPasses_of_requestLegal hm hr)⟩
  case missing =>
    exact exec_of_requestCheck_eq_some (f := .at .missingField k) hg hml
      (hcheck.trans (fieldCheck_of_first_missing hk hlt))
  case range =>
    exact exec_of_requestCheck_eq_some (f := .at .outOfRange k) hg hml
      (hcheck.trans (fieldCheck_of_first_outOfRange hmissing hk hlt))
  case conflict =>
    exact exec_of_requestCheck_eq_some (f := .at .conflictingFields (s.conflict c).fa) hg hml
      (hcheck.trans (fieldCheck_of_first_conflict hmissing hrange hc hlt))

/-! ## What each field places in the canvas (R146 to R148) -/

/-- R148: the weight of position `j` in the window `[first, last]`, the inverse of `windowPosition`. -/
def windowWeight (order : BitOrder) (first last j : Nat) : Nat :=
  match order with
  | .lsbAtStart => j - first
  | .lsbAtEnd => last - j

theorem windowWeight_fieldOrder (s : State) (first last j : Nat) :
    windowWeight s.fieldOrder first last j = if s.ctrl.getLsbD 1 then last - j else j - first := by
  cases h : s.ctrl.getLsbD 1 with
  | false => rw [fieldOrder_eq_lsbAtStart h]; rfl
  | true => rw [fieldOrder_eq_lsbAtEnd h]; rfl

theorem windowWeight_windowPosition (order : BitOrder) {first last i : Nat} (hw : first ≤ last)
    (hi : i < last - first + 1) : windowWeight order first last (windowPosition order first last i) = i := by
  cases order <;> simp only [windowWeight, windowPosition] <;> omega

/-- R146: field `k` places a 1 at position `j` of the canvas. -/
def PlacesOne (s : State) (k : Fin 8) (j : Nat) : Prop :=
  (s.desc k).kind ≠ .off ∧ (s.desc k).start ≤ j ∧ j ≤ (s.desc k).stop ∧
    (valueToPlace s k).getLsbD (windowWeight s.fieldOrder (s.desc k).start (s.desc k).stop j) = true

section
variable {s : State} {k : Fin 8}

/-- R143: the state map has an entry for a supplied state that is in range. -/
theorem exists_semToRaw_of_in_range (hrange : ¬ValueOutOfRange s k) (hs : Supplied s k) (hk : (s.desc k).kind = .state) :
    ∃ raw, semToRaw s (s.request k) = some raw ∧ minLen raw ≤ (s.desc k).width := by
  cases hraw : semToRaw s (s.request k) with
  | none => exact absurd ⟨hs, .inr ⟨hk, .inl hraw⟩⟩ hrange
  | some raw =>
    refine ⟨raw, rfl, Nat.not_lt.1 fun hlong => hrange ⟨hs, .inr ⟨hk, .inr ?_⟩⟩⟩
    rwa [hraw]

/-- R143: a supplied value that is in range fits its window. -/
theorem minLen_request_le_of_in_range (hrange : ¬ValueOutOfRange s k) (hs : Supplied s k)
    (hk : (s.desc k).kind = .value) : minLen (s.request k) ≤ (s.desc k).width :=
  Nat.not_lt.1 fun hlong => hrange ⟨hs, .inl ⟨hk, .inr (.inr hlong)⟩⟩

/-- R146: a supplied value is placed as it is. -/
theorem valueToPlace_of_value (hk : (s.desc k).kind = .value) (hs : Supplied s k) : valueToPlace s k = s.request k := by
  simp only [valueToPlace, hk, if_pos ((present_iff s k).2 hs)]

/-- R146: a supplied state is placed as its raw value. -/
theorem valueToPlace_of_state (hk : (s.desc k).kind = .state) (hs : Supplied s k) :
    valueToPlace s k = (semToRaw s (s.request k)).getD 0 := by
  simp only [valueToPlace, hk, if_pos ((present_iff s k).2 hs)]

/-- R146: an absent field is placed as 0. -/
theorem valueToPlace_of_absent (hk : (s.desc k).kind ≠ .sync) (hs : ¬Supplied s k) : valueToPlace s k = 0 := by
  have hp : ¬s.present k = true := mt (present_iff s k).1 hs
  unfold valueToPlace
  cases hkind : (s.desc k).kind with
  | off => rfl
  | sync => exact absurd hkind hk
  | value => exact if_neg hp
  | state => exact if_neg hp

/-- R146: a SYNC field is placed as its constant. -/
theorem valueToPlace_of_sync (hk : (s.desc k).kind = .sync) : valueToPlace s k = (s.desc k).const := by
  simp only [valueToPlace, hk]

/-- R146: the value to encode of an enabled field exists and is the one `fencode()` places. -/
theorem valueToEncode_iff (hrange : ¬ValueOutOfRange s k) (v : Word) :
    ValueToEncode s k v ↔ (s.desc k).kind ≠ .off ∧ v = valueToPlace s k := by
  unfold ValueToEncode
  cases hk : (s.desc k).kind with
  | off => simp
  | sync => simp [valueToPlace_of_sync hk]
  | value =>
    by_cases hs : Supplied s k
    · rw [valueToPlace_of_value hk hs]
      simp [eq_true hs]
    · rw [valueToPlace_of_absent (by simp [hk]) hs]
      simp [eq_false hs]
  | state =>
    by_cases hs : Supplied s k
    · obtain ⟨raw, hraw, _⟩ := exists_semToRaw_of_in_range hrange hs hk
      rw [valueToPlace_of_state hk hs, hraw]
      simp [eq_true hs, @eq_comm _ raw v]
    · rw [valueToPlace_of_absent (by simp [hk]) hs]
      simp [eq_false hs]

/-- R115, R143: what an enabled field places fits its window. -/
theorem minLen_valueToPlace_le {n : Nat} (hwindow : WindowLegal n (s.desc k)) (hrange : ¬ValueOutOfRange s k)
    (hk : (s.desc k).kind ≠ .off) : minLen (valueToPlace s k) ≤ (s.desc k).width := by
  have hzero : minLen 0 ≤ (s.desc k).width := Nat.le_add_left 1 _
  obtain ⟨_, _, _, hconst⟩ := hwindow hk
  obtain ⟨hkind, ⟨hs, hv⟩ | ⟨_, hv⟩⟩ | ⟨hkind, ⟨hs, hv⟩ | ⟨_, hv⟩⟩ | ⟨hkind, hv⟩ :=
    (valueToEncode_iff hrange _).2 ⟨hk, rfl⟩
  · exact hv ▸ minLen_request_le_of_in_range hrange hs hkind
  · exact hv ▸ hzero
  · obtain ⟨raw, hraw, hle⟩ := exists_semToRaw_of_in_range hrange hs hkind
    exact Option.some.inj (hraw.symm.trans hv) ▸ hle
  · exact hv ▸ hzero
  · exact hv ▸ hconst hkind

/-- R146, R148: the canvas bits one field sets. -/
theorem getLsbD_encodeField_iff {n : Nat} (hn : n ≤ 256) (hwindow : WindowLegal n (s.desc k))
    (hrange : ¬ValueOutOfRange s k) (j : Nat) : (encodeField s 0 k).getLsbD j = true ↔ PlacesOne s k j := by
  unfold encodeField PlacesOne
  by_cases hk : (s.desc k).kind = .off
  · rw [if_pos hk]
    simp [hk]
  · obtain ⟨hle, hlt, _⟩ := hwindow hk
    rw [if_neg hk, getLsbD_place_window _ _ _ hle (by omega) (minLen_valueToPlace_le hwindow hrange hk)]
    cases s.fieldOrder <;> simp [hk, windowWeight, and_assoc]

end

section
variable {s : State}

theorem encodeCanvas_of_fields (hm : s.mode = .fields) : encodeCanvas s = fieldCanvas s := by
  rw [encodeCanvas, hm]

/-- R147: the canvas holds the OR of what the fields place. -/
theorem getLsbD_encodeCanvas_iff (hg : GeometryLegal s) (hm : s.mode = .fields) (hl : LayoutLegal s)
    (hrange : ∀ k, ¬ValueOutOfRange s k) (j : Nat) :
    (encodeCanvas s).getLsbD j = true ↔ ∃ k, PlacesOne s k j := by
  have hn : bodyBits s ≤ 256 := (bodyBits_le hg).trans (by decide)
  rw [encodeCanvas_of_fields hm, getLsbD_fieldCanvas, List.any_eq_true]
  simp only [List.mem_finRange, true_and, getLsbD_encodeField_iff hn (hl _) (hrange _)]

end

/-- Settles O53: a canvas bit is the OR over the fields of what each places, which is its value to encode. -/
theorem fieldCanvasHoldsThePlacedValues : Obligations.FieldCanvasHoldsThePlacedValues := by
  unfold Obligations.FieldCanvasHoldsThePlacedValues
  rintro s hg hm hl ⟨_, hrange, _⟩
  have hcanvas := getLsbD_encodeCanvas_iff hg hm hl hrange
  refine ⟨fun j => ?_, fun j hout => ?_⟩
  · rw [hcanvas]
    simp only [PlacesOne, windowWeight_fieldOrder, valueToEncode_iff (hrange _)]
    constructor
    · rintro ⟨k, hk, hwindow⟩
      exact ⟨k, _, ⟨hk, rfl⟩, hwindow⟩
    · rintro ⟨k, _, ⟨hk, rfl⟩, hwindow⟩
      exact ⟨k, hk, hwindow⟩
  · rw [Bool.eq_false_iff, ne_eq, hcanvas]
    rintro ⟨k, hk, hge, hle, _⟩
    have := hout k hk
    omega

/-! ## The echo of a synthesised train (R131, R169) -/

section
variable {s : State}

theorem not_someAmbiguous_synth (hg : GeometryLegal s) (canvas : BitVec 256) : ¬SomeAmbiguous (synth s canvas) := by
  rintro ⟨i, hi, ha⟩
  have hclear := clsAmb_synth hg canvas hi
  rw [(clsAmb_iff _ i).2 ha] at hclear
  cases hclear

/-- R169: a 1 of the canvas in the guard ends the echo without a message. -/
theorem echoDecode_synth_of_guard (hg : GeometryLegal s) (hsep : Separable s) {canvas : BitVec 256}
    (h : ∃ i, i < s.guardLength ∧ canvas.getLsbD i = true) :
    echoDecode (synth s canvas) = { synth s canvas with msgStat := 0x400 } := by
  have hguard : ¬GuardClear (synth s canvas) := by
    rw [← guardOk_iff, guardOk_synth_iff hg hsep]
    obtain ⟨i, hi, hone⟩ := h
    intro hclear
    rw [hclear i hi] at hone
    cases hone
  have hframe := frameCheck_of_guard (s := synth s canvas) hg (count_synth s canvas) (headerInWindow_synth hg canvas)
    (footerInWindow_synth hg canvas) hguard
  have hdecode : decodeTrain (synth s canvas) = ⟨synth s canvas, false, some (.plain .startSequenceMismatch)⟩ := by
    rw [decodeTrain, hframe]
  rw [echoDecode, hdecode]
  rfl

/-- R131, R169: with a clear guard the echo decodes the demodulated vector. -/
theorem decodeTrain_synth (hg : GeometryLegal s) (hsep : Separable s) {canvas : BitVec 256}
    (h : ∀ i, i < s.guardLength → canvas.getLsbD i = false) :
    decodeTrain (synth s canvas) = endOfDecode (synth s canvas) (decodeMessage (demodBody (synth s canvas))) :=
  decodeTrain_of_demodulated (s := synth s canvas) hg
    ⟨count_synth s canvas, headerInWindow_synth hg canvas, footerInWindow_synth hg canvas,
      (guardOk_iff _).1 ((guardOk_synth_iff hg hsep canvas).2 h)⟩
    fun ha => not_someAmbiguous_synth hg canvas ha.1

theorem echoDecode_synth_of_message (hg : GeometryLegal s) (hsep : Separable s) {canvas : BitVec 256}
    (h : ∀ i, i < s.guardLength → canvas.getLsbD i = false) {t : State}
    (ht : decodeMessage (demodBody (synth s canvas)) = .ok t) : echoDecode (synth s canvas) = t := by
  rw [echoDecode, decodeTrain_synth hg hsep h, ht]
  rfl

theorem echoDecode_synth_of_no_message (hg : GeometryLegal s) (hsep : Separable s) {canvas : BitVec 256}
    (h : ∀ i, i < s.guardLength → canvas.getLsbD i = false) {f : Failure}
    (hf : decodeMessage (demodBody (synth s canvas)) = .error f) :
    echoDecode (synth s canvas) = { demodBody (synth s canvas) with msgStat := noMessageStat f.code } := by
  rw [echoDecode, decodeTrain_synth hg hsep h, hf]
  rfl

end

/-! ## The field round trip (R149) -/

/-- R149: no two enabled windows share a position. -/
def WindowsDisjoint (s : State) : Prop :=
  ∀ j k : Fin 8, j ≠ k → (s.desc j).kind ≠ .off → (s.desc k).kind ≠ .off →
    (s.desc j).stop < (s.desc k).start ∨ (s.desc k).stop < (s.desc j).start

/-- R149: the state map reads each supplied state back. -/
def StatesReadBack (s : State) : Prop :=
  ∀ k, Supplied s k → (s.desc k).kind = .state →
    (semToRaw s (s.request k)).bind (rawToSem s) = some (s.request k)

/-- R149: `raw2sem` has a state for each absent STATE field. -/
def AbsentStatesMapped (s : State) : Prop :=
  ∀ k, (s.desc k).kind = .state → ¬Supplied s k → rawToSem s 0 ≠ none

/-- R169: the state on which the echo of the request of `s` decodes its message. -/
def echoed (s : State) : State := demodBody (synth s (encodeCanvas s))

@[simp] theorem desc_echoed (s : State) (k : Fin 8) : (echoed s).desc k = s.desc k := rfl

@[simp] theorem rawToSem_echoed (s : State) (raw : Word) : rawToSem (echoed s) raw = rawToSem s raw := rfl

section
variable {s : State} {k : Fin 8}

/-- R149: in a window of its own, a field's bits in the canvas are those of its value, each at its weight. -/
theorem getLsbD_encodeCanvas_windowPosition (hg : GeometryLegal s) (hm : s.mode = .fields) (hl : LayoutLegal s)
    (hdisjoint : WindowsDisjoint s) (hrange : ∀ k, ¬ValueOutOfRange s k) (hk : (s.desc k).kind ≠ .off) {i : Nat}
    (hi : i < (s.desc k).width) :
    (encodeCanvas s).getLsbD (windowPosition s.fieldOrder (s.desc k).start (s.desc k).stop i) =
      (valueToPlace s k).getLsbD i := by
  obtain ⟨hle, _⟩ := hl k hk
  obtain ⟨hge, hstop⟩ := windowPosition_mem s.fieldOrder hle hi
  have hweight := windowWeight_windowPosition s.fieldOrder hle hi
  rw [Bool.eq_iff_iff, getLsbD_encodeCanvas_iff hg hm hl hrange]
  constructor
  · rintro ⟨j, hj, hjge, hjle, hone⟩
    obtain rfl : j = k := by
      by_contra hne
      have := hdisjoint j k hne hj hk
      omega
    rwa [hweight] at hone
  · exact fun hone => ⟨k, hk, hge, hstop, by rwa [hweight]⟩

/-- R149: the echo reads each enabled field's window as the value that was placed there. -/
theorem fieldRaw_echoed (hg : GeometryLegal s) (hm : s.mode = .fields) (hl : LayoutLegal s) (hsep : Separable s)
    (hdisjoint : WindowsDisjoint s) (hrange : ∀ k, ¬ValueOutOfRange s k) (hk : (s.desc k).kind ≠ .off) :
    fieldRaw (echoed s) k = valueToPlace s k := by
  obtain ⟨hle, hlt, _⟩ := hl k hk
  refine b2v_eq_of_window_bits (minLen_valueToPlace_le (hl k) (hrange k) hk) fun i hi => ?_
  obtain ⟨_, hstop⟩ := windowPosition_mem s.fieldOrder hle hi
  calc (demodVector (synth s (encodeCanvas s))).getLsbD
        (windowPosition s.fieldOrder (s.desc k).start (s.desc k).stop i)
      = (encodeCanvas s).getLsbD (windowPosition s.fieldOrder (s.desc k).start (s.desc k).stop i) :=
        getLsbD_demodVector_synth hg hsep _ (by omega)
    _ = (valueToPlace s k).getLsbD i := getLsbD_encodeCanvas_windowPosition hg hm hl hdisjoint hrange hk hi

/-- R149: a supplied state is mapped back from the raw value that was placed for it. -/
theorem rawToSem_valueToPlace (hback : StatesReadBack s) (hs : Supplied s k) (hk : (s.desc k).kind = .state) :
    rawToSem s (valueToPlace s k) = some (s.request k) := by
  have h := hback k hs hk
  rw [valueToPlace_of_state hk hs]
  cases hraw : semToRaw s (s.request k) with
  | none => rw [hraw] at h; cases h
  | some raw => rwa [hraw] at h

end

/-! What the echo makes of each field, from what its window holds. -/

section
variable {s : State} {k : Fin 8} (hplaced : (s.desc k).kind ≠ .off → fieldRaw (echoed s) k = valueToPlace s k)
include hplaced

/-- R149: only an absent STATE field can fail, when raw 0 is not mapped. -/
theorem fieldDecodes_echoed_iff (hback : StatesReadBack s) :
    FieldDecodes (echoed s) k ↔ ((s.desc k).kind = .state → ¬Supplied s k → rawToSem s 0 ≠ none) := by
  simp only [FieldDecodes, desc_echoed, rawToSem_echoed]
  cases hk : (s.desc k).kind with
  | off => simp
  | value => simp
  | sync =>
    rw [hplaced (by simp [hk]), valueToPlace_of_sync hk]
    simp
  | state =>
    rw [hplaced (by simp [hk])]
    by_cases hs : Supplied s k
    · rw [rawToSem_valueToPlace hback hs hk]
      simp [hs]
    · rw [valueToPlace_of_absent (by simp [hk]) hs]
      simp [hs]

/-- R149: a supplied field decodes to its request. -/
theorem decodedValue_echoed_of_supplied (hback : StatesReadBack s) (hs : Supplied s k) :
    decodedValue (echoed s) k = s.request k := by
  obtain ⟨_, hmessage⟩ := id hs
  cases hk : (s.desc k).kind with
  | off => simp [FieldDesc.isMessage, hk] at hmessage
  | sync => simp [FieldDesc.isMessage, hk] at hmessage
  | value => rw [decodedValue_of_value (s := echoed s) hk, hplaced (by simp [hk]), valueToPlace_of_value hk hs]
  | state =>
    rw [decodedValue_of_state (s := echoed s) hk, hplaced (by simp [hk]), rawToSem_echoed,
      rawToSem_valueToPlace hback hs hk, Option.getD_some]

/-- R149: an absent VALUE field decodes to 0. -/
theorem decodedValue_echoed_of_absent_value (hk : (s.desc k).kind = .value) (hs : ¬Supplied s k) :
    decodedValue (echoed s) k = 0 := by
  rw [decodedValue_of_value (s := echoed s) hk, hplaced (by simp [hk]), valueToPlace_of_absent (by simp [hk]) hs]

/-- R149: an absent STATE field decodes to the state of raw 0, where it has one. -/
theorem decodedValue_echoed_of_absent_state (hk : (s.desc k).kind = .state) (hs : ¬Supplied s k)
    (hmapped : rawToSem s 0 ≠ none) : rawToSem s 0 = some (decodedValue (echoed s) k) := by
  obtain ⟨code, hcode⟩ := Option.ne_none_iff_exists'.1 hmapped
  rw [decodedValue_of_state (s := echoed s) hk, hplaced (by simp [hk]), valueToPlace_of_absent (by simp [hk]) hs,
    rawToSem_echoed, hcode, Option.getD_some]

end

/-- R149: when raw 0 is not mapped, the echo of an absent STATE field ends InvalidState. -/
theorem fieldDecode_echoed_of_unmapped {s : State} (hback : StatesReadBack s)
    (hplaced : ∀ k, (s.desc k).kind ≠ .off → fieldRaw (echoed s) k = valueToPlace s k)
    (hunmapped : ¬AbsentStatesMapped s) :
    ∃ k : Fin 8, fieldDecode (echoed s) = .error (.at .invalidState k) := by
  have hfails : ¬∀ k, FieldDecodes (echoed s) k := fun hdecodes =>
    hunmapped fun k => (fieldDecodes_echoed_iff (hplaced k) hback).1 (hdecodes k)
  obtain ⟨k, c, hk, hc, hdecode⟩ := fieldDecode_of_not_decodes hfails
  have hstate : (s.desc k).kind = .state := by
    by_contra hne
    exact hk ((fieldDecodes_echoed_iff (hplaced k) hback).2 fun h => absurd h hne)
  have hcode : c.byte = 0x11 := by
    rw [hc, fieldErrorCode, desc_echoed, hstate]
    rfl
  obtain rfl : c = .invalidState := ErrCode.eq_invalidState_of_byte hcode
  exact ⟨k, hdecode⟩

/-- Settles O51: the echo decodes the demodulated canvas, in which each window holds the value placed in it. -/
theorem encodedFieldsDecodeToTheRequest : Obligations.EncodedFieldsDecodeToTheRequest := by
  unfold Obligations.EncodedFieldsDecodeToTheRequest
  intro s hg hm hl hsep hdisjoint hr hback
  obtain ⟨_, hrange, _⟩ := id hr
  have hplaced : ∀ k, (s.desc k).kind ≠ .off → fieldRaw (echoed s) k = valueToPlace s k :=
    fun k => fieldRaw_echoed hg hm hl hsep hdisjoint hrange
  have hmessage : decodeMessage (echoed s) = fieldDecode (echoed s) := decodeMessage_of_fields (s := echoed s) hm
  refine ⟨_, exec_encode_of_requestPasses hg (modeLegal_of_layoutLegal hm hl) (requestPasses_of_requestLegal hm hr),
    rfl, fun hguard => ?guard, fun hclear => ⟨fun hmapped => ?mapped, fun k hk hs hnone => ?unmapped⟩⟩
  case guard =>
    rw [echoDecode_synth_of_guard hg hsep hguard]
    exact ⟨rfl, rfl⟩
  case mapped =>
    have hdecode := fieldDecode_of_decodes fun k => (fieldDecodes_echoed_iff (hplaced k) hback).2 (hmapped k)
    obtain ⟨hstat, hmsg⟩ := message_of_fieldDecode_eq_ok hdecode
    rw [echoDecode_synth_of_message hg hsep hclear (hmessage.trans hdecode)]
    refine ⟨hstat, fun k hs => ?_, fun k hk hs => ?_, fun k hk hs => ?_, fun k hk => ?_⟩
    · exact (hmsg k).trans (decodedValue_echoed_of_supplied (hplaced k) hback hs)
    · exact (hmsg k).trans (decodedValue_echoed_of_absent_value (hplaced k) hk hs)
    · exact (decodedValue_echoed_of_absent_state (hplaced k) hk hs (hmapped k hk hs)).trans
        (congrArg some (hmsg k).symm)
    · exact (hmsg k).trans (decodedValue_of_sync (s := echoed s) hk)
  case unmapped =>
    obtain ⟨j, hdecode⟩ := fieldDecode_echoed_of_unmapped hback hplaced fun hmapped => hmapped k hk hs hnone
    rw [echoDecode_synth_of_no_message hg hsep hclear (hmessage.trans hdecode)]
    rfl

end Sys2Proof.Machine
end

section
/-! The family of `44_patterntable.md`: the scan of the table (R153, R154), distinct patterns (R156), the check of a
pattern request (R157), its canvas (R158) and the pattern round trip (R159). -/

namespace Sys2Proof.Machine

/-! ## The scan of the table (R153, R154) -/

/-- R153: the entries in use are listed in the order of the scan. -/
theorem scanOrder_pairwise (s : State) : (scanOrder s).Pairwise fun e e' => ScannedBefore e.1 e.2 e'.1 e'.2 := by
  refine List.pairwise_flatMap.2 ⟨fun c _ => ?sameCommand, List.pairwise_lt_range.imp fun hlt => ?laterCommand⟩
  case sameCommand =>
    exact List.pairwise_map.2 (List.pairwise_lt_range.imp fun hlt => .inr ⟨rfl, hlt⟩)
  case laterCommand =>
    intro e he e' he'
    obtain ⟨_, _, rfl⟩ := List.mem_map.1 he
    obtain ⟨_, _, rfl⟩ := List.mem_map.1 he'
    exact .inl hlt

/-- A search of a list in a strict order takes the element that passes the test with none before it that does. -/
theorem find?_eq_some_iff_of_pairwise {α : Type} {R : α → α → Prop} {l : List α} (hl : l.Pairwise R)
    (hasymm : ∀ a b, R a b → ¬R b a) (p : α → Bool) (e : α) :
    l.find? p = some e ↔ e ∈ l ∧ p e = true ∧ ∀ a ∈ l, R a e → p a = false := by
  constructor
  · intro h
    obtain ⟨hp, before, after, rfl, hbefore⟩ := List.find?_eq_some_iff_append.1 h
    obtain ⟨_, hafter, _⟩ := List.pairwise_append.1 hl
    refine ⟨by simp, hp, fun a ha hae => ?_⟩
    obtain ha | rfl | ha := by simpa using ha
    · simpa using hbefore a ha
    · exact absurd hae (hasymm _ _ hae)
    · exact absurd hae (hasymm _ _ (List.rel_of_pairwise_cons hafter ha))
  · rintro ⟨he, hp, hfirst⟩
    obtain ⟨before, after, rfl⟩ := List.append_of_mem he
    obtain ⟨_, _, hcross⟩ := List.pairwise_append.1 hl
    refine List.find?_eq_some_iff_append.2 ⟨hp, before, after, rfl, fun a ha => ?_⟩
    rw [hfirst a (by simp [ha]) (hcross a ha e (by simp))]
    rfl

/-- R153: (c, st) is the first entry in scan order that equals `v` in bits `0 .. N − 1`. -/
def FirstEqualEntry (s : State) (v : BitVec 256) (c st : Nat) : Prop :=
  c < s.ncmd ∧ st < s.nstate ∧ EntryEquals s v c st ∧
    ∀ c' st', c' < s.ncmd → st' < s.nstate → ScannedBefore c' st' c st → ¬EntryEquals s v c' st'

/-- R154: what a pattern decode to (c, st) writes. -/
def withPatternMessage (s : State) (c st : Nat) : State :=
  { s with msgCmd := BitVec.ofNat 32 c, msgSidx := BitVec.ofNat 32 st, msgStat := patternMessageStat }

section
variable {s : State} {v : BitVec 256} {c st : Nat}

/-- R153: only the bits below `N` take part in the scan. -/
theorem firstEqualEntry_congr {w : BitVec 256} (h : ∀ i, i < bodyBits s → v.getLsbD i = w.getLsbD i) (c st : Nat) :
    FirstEqualEntry s v c st ↔ FirstEqualEntry s w c st := by
  have hentry : ∀ c st, EntryEquals s v c st ↔ EntryEquals s w c st := fun c st =>
    forall₂_congr fun i hi => by rw [h i hi]
  simp only [FirstEqualEntry, hentry]

theorem find?_scanOrder_eq_some_iff (hg : GeometryLegal s) (c st : Nat) :
    (scanOrder s).find? (entryMatches s) = some (c, st) ↔ FirstEqualEntry s s.bv c st := by
  rw [find?_eq_some_iff_of_pairwise (scanOrder_pairwise s) fun e e' h h' => by omega]
  simp only [Prod.forall, mem_scanOrder, entryMatches_iff hg, Bool.eq_false_iff, ne_eq, FirstEqualEntry, and_assoc,
    and_imp]

/-- R153: the scan ends at one entry. -/
theorem FirstEqualEntry.unique {c' st' : Nat} (h : FirstEqualEntry s v c st)
    (h' : FirstEqualEntry s v c' st') : c = c' ∧ st = st' := by
  obtain ⟨hc, hst, heq, hfirst⟩ := h
  obtain ⟨hc', hst', heq', hfirst'⟩ := h'
  have hnot : ¬ScannedBefore c st c' st' := fun hb => hfirst' c st hc hst hb heq
  have hnot' : ¬ScannedBefore c' st' c st := fun hb => hfirst c' st' hc' hst' hb heq'
  omega

/-- R153: when some entry in use equals the vector, one of them is the first. -/
theorem exists_firstEqualEntry (hg : GeometryLegal s) (hc : c < s.ncmd) (hst : st < s.nstate)
    (h : EntryEquals s s.bv c st) : ∃ c' st', FirstEqualEntry s s.bv c' st' := by
  have hfound : ((scanOrder s).find? (entryMatches s)).isSome :=
    List.find?_isSome.2 ⟨(c, st), (mem_scanOrder s c st).2 ⟨hc, hst⟩, (entryMatches_iff hg c st).2 h⟩
  obtain ⟨⟨c', st'⟩, hfind⟩ := Option.isSome_iff_exists.1 hfound
  exact ⟨c', st', (find?_scanOrder_eq_some_iff hg c' st').1 hfind⟩

/-- R154: a decode writes the indices of the first equal entry. -/
theorem patternDecode_of_first (hg : GeometryLegal s) (h : FirstEqualEntry s s.bv c st) :
    patternDecode s = .ok (withPatternMessage s c st) := by
  rw [patternDecode, (find?_scanOrder_eq_some_iff hg c st).2 h]
  rfl

theorem patternDecode_of_none (hg : GeometryLegal s)
    (h : ∀ c st, c < s.ncmd → st < s.nstate → ¬EntryEquals s s.bv c st) :
    patternDecode s = .error (.plain .noMatch) := by
  have hnone : (scanOrder s).find? (entryMatches s) = none := by
    refine List.find?_eq_none.2 fun ⟨c, st⟩ he hmatch => ?_
    obtain ⟨hc, hst⟩ := (mem_scanOrder s c st).1 he
    exact h c st hc hst ((entryMatches_iff hg c st).1 hmatch)
  rw [patternDecode, hnone]

theorem decodeMessage_of_patterns (hm : s.mode = .patterns) : decodeMessage s = patternDecode s := by
  rw [decodeMessage, hm]

theorem modeLegal_of_tableLegal (hm : s.mode = .patterns) (ht : TableLegal s) : ModeLegal s :=
  ⟨fun hf => absurd (hm.symm.trans hf) (by decide), fun _ => ht⟩

/-- R154, R164: BVDECODE of a vector that equals an entry in use. -/
theorem exec_bvdecode_of_first (hg : GeometryLegal s) (hm : s.mode = .patterns) (ht : TableLegal s)
    (h : FirstEqualEntry s s.bv c st) :
    exec .bvdecode s = .next { withPatternMessage s c st with status := 0x06FF0002 } :=
  exec_bvdecode_of_message hg (modeLegal_of_tableLegal hm ht)
    ((decodeMessage_of_patterns hm).trans (patternDecode_of_first hg h))

/-- R154, R164: BVDECODE of a vector that equals no entry in use. -/
theorem exec_bvdecode_of_none (hg : GeometryLegal s) (hm : s.mode = .patterns) (ht : TableLegal s)
    (h : ∀ c st, c < s.ncmd → st < s.nstate → ¬EntryEquals s s.bv c st) :
    exec .bvdecode s = .next { s with msgStat := 0x1300, status := 0x06FF1300 } :=
  exec_bvdecode_of_no_message (f := .plain .noMatch) hg (modeLegal_of_tableLegal hm ht)
    ((decodeMessage_of_patterns hm).trans (patternDecode_of_none hg h))

/-- R33: the indices of an entry in use are held in the message registers without loss. -/
theorem FirstEqualEntry.toNat_indices (h : FirstEqualEntry s v c st) :
    (BitVec.ofNat 32 c).toNat = c ∧ (BitVec.ofNat 32 st).toNat = st := by
  obtain ⟨hc, hst, _⟩ := h
  have hncmd : s.ncmd < 16 := bitsOf_lt _ _ _
  have hnstate : s.nstate < 8 := bitsOf_lt _ _ _
  rw [BitVec.toNat_ofNat, BitVec.toNat_ofNat]
  exact ⟨Nat.mod_eq_of_lt (by omega), Nat.mod_eq_of_lt (by omega)⟩

end

/-- Settles O42: BVDECODE ends with the first entry the scan finds, or with NoMatch. -/
theorem bvdecodeTakesTheFirstMatchingPattern : Obligations.BvdecodeTakesTheFirstMatchingPattern := by
  unfold Obligations.BvdecodeTakesTheFirstMatchingPattern
  intro s hg hm ht
  exact ⟨fun c st hc hst heq hfirst => exec_bvdecode_of_first hg hm ht ⟨hc, hst, heq, hfirst⟩,
    exec_bvdecode_of_none hg hm ht⟩

/-! ## Distinct patterns (R156) -/

/-- Settles O43: among distinct entries the one that equals BV is the first that does. -/
theorem distinctPatternsDecodeExactly : Obligations.DistinctPatternsDecodeExactly := by
  unfold Obligations.DistinctPatternsDecodeExactly
  intro s hg hm ht hdistinct
  refine ⟨fun c st hc hst heq => ?equal, fun hdiffer => ?different⟩
  case equal =>
    have hfirst : FirstEqualEntry s s.bv c st := by
      refine ⟨hc, hst, heq, fun c' st' hc' hst' hbefore heq' => ?_⟩
      refine hdistinct c st c' st' hc hst hc' hst' (by omega) fun i hi => ?_
      rw [heq i hi, heq' i hi]
    exact ⟨_, exec_bvdecode_of_first hg hm ht hfirst, rfl, rfl, hfirst.toNat_indices⟩
  case different =>
    refine ⟨_, exec_bvdecode_of_none hg hm ht fun c st hc hst heq => ?_, rfl,
      (by decide : (0x1300 : Word).getLsbD 31 = false)⟩
    obtain ⟨i, hi, hne⟩ := hdiffer c st hc hst
    exact hne (heq i hi)

/-! ## The pattern request check (R157) -/

section
variable {s : State}

theorem patternCheck_of_command_outOfRange (h : s.ncmd ≤ s.reqCmd.toNat) :
    patternCheck s = some (.at .outOfRange 0) := if_pos h

theorem patternCheck_of_state_outOfRange (hc : s.reqCmd.toNat < s.ncmd) (h : s.nstate ≤ s.reqSidx.toNat) :
    patternCheck s = some (.at .outOfRange 1) := by
  rw [patternCheck, if_neg (by omega), if_pos h]

theorem requestCheck_of_patterns (hm : s.mode = .patterns) : requestCheck s = patternCheck s := by
  rw [requestCheck, hm]

theorem requestPasses_of_patternRequestLegal (hm : s.mode = .patterns) (hr : PatternRequestLegal s) :
    RequestPasses s :=
  ⟨fun hf => absurd (hm.symm.trans hf) (by decide), fun _ => hr⟩

end

/-- Settles O44: both commands report the index that `pcheck()` finds out of range, the command's first. -/
theorem reqchkChecksThePatternIndices : Obligations.ReqchkChecksThePatternIndices := by
  unfold Obligations.ReqchkChecksThePatternIndices
  intro s hg hm ht
  have hml := modeLegal_of_tableLegal hm ht
  have hcheck := requestCheck_of_patterns hm
  refine ⟨fun hcmd => ?command, fun hcmd hsidx => ?state, fun hcmd hsidx => ?legal⟩
  case command =>
    exact exec_of_requestCheck_eq_some (f := .at .outOfRange 0) hg hml
      (hcheck.trans (patternCheck_of_command_outOfRange hcmd))
  case state =>
    exact exec_of_requestCheck_eq_some (f := .at .outOfRange 1) hg hml
      (hcheck.trans (patternCheck_of_state_outOfRange hcmd hsidx))
  case legal =>
    exact exec_reqchk_of_requestPasses hg hml (requestPasses_of_patternRequestLegal hm ⟨hcmd, hsidx⟩)

/-! ## The pattern canvas (R158) -/

/-- R158: the entry the request names. -/
def requestedEntry (s : State) : BitVec 256 := s.patternAt (4 * s.reqCmd.toNat + s.reqSidx.toNat)

section
variable {s : State}

theorem getLsbD_encodeCanvas_of_patterns (hg : GeometryLegal s) (hm : s.mode = .patterns) (j : Nat) :
    (encodeCanvas s).getLsbD j = (decide (j < bodyBits s) && (requestedEntry s).getLsbD j) := by
  rw [encodeCanvas, hm, ← bvLen_of_legal hg]
  exact getLsbD_patternCanvas s j

theorem getLsbD_encodeCanvas_below (hg : GeometryLegal s) (hm : s.mode = .patterns) {j : Nat} (hj : j < bodyBits s) :
    (encodeCanvas s).getLsbD j = (requestedEntry s).getLsbD j := by
  rw [getLsbD_encodeCanvas_of_patterns hg hm, decide_eq_true hj, Bool.true_and]

end

/-- Settles O54: the canvas is the requested entry cut off at `N`. -/
theorem patternCanvasHoldsTheRequestedEntry : Obligations.PatternCanvasHoldsTheRequestedEntry := by
  unfold Obligations.PatternCanvasHoldsTheRequestedEntry
  intro s hg hm _ _
  refine ⟨fun j hj => getLsbD_encodeCanvas_below hg hm hj, fun j hj => ?_⟩
  rw [getLsbD_encodeCanvas_of_patterns hg hm, decide_eq_false (by omega), Bool.false_and]

/-! ## The pattern round trip (R159) -/

/-- R159: the requested entry is one of those that hold its bits. -/
theorem entryEquals_requestedEntry (s : State) : EntryEquals s (requestedEntry s) s.reqCmd.toNat s.reqSidx.toNat :=
  fun _ _ => rfl

section
variable {s : State}

/-- R131, R159: below `N` the echo demodulates the requested entry. -/
theorem getLsbD_bv_echoed (hg : GeometryLegal s) (hm : s.mode = .patterns) (hsep : Separable s) {i : Nat}
    (hi : i < bodyBits s) : (echoed s).bv.getLsbD i = (requestedEntry s).getLsbD i :=
  (getLsbD_demodVector_synth hg hsep _ hi).trans (getLsbD_encodeCanvas_below hg hm hi)

/-- R159: the scan of the echo is the scan for the requested entry's bits. -/
theorem firstEqualEntry_echoed_iff (hg : GeometryLegal s) (hm : s.mode = .patterns) (hsep : Separable s) (c st : Nat) :
    FirstEqualEntry (echoed s) (echoed s).bv c st ↔ FirstEqualEntry s (requestedEntry s) c st :=
  firstEqualEntry_congr (s := echoed s) (fun _ hi => getLsbD_bv_echoed hg hm hsep hi) c st

/-- R159: the echo finds an entry, for the requested one holds the bits it demodulates. -/
theorem exists_firstEqualEntry_requested (hg : GeometryLegal s) (hm : s.mode = .patterns) (hsep : Separable s)
    (hr : PatternRequestLegal s) : ∃ c st, FirstEqualEntry s (requestedEntry s) c st := by
  obtain ⟨hc, hst⟩ := hr
  have hequal : EntryEquals (echoed s) (echoed s).bv s.reqCmd.toNat s.reqSidx.toNat :=
    fun i hi => (getLsbD_bv_echoed hg hm hsep hi).symm
  obtain ⟨c, st, hfirst⟩ := exists_firstEqualEntry (s := echoed s) hg hc hst hequal
  exact ⟨c, st, (firstEqualEntry_echoed_iff hg hm hsep c st).1 hfirst⟩

/-- R159, R169: the echo behind a clear guard leaves the message of the first equal entry. -/
theorem echoDecode_of_first (hg : GeometryLegal s) (hm : s.mode = .patterns) (hsep : Separable s)
    (hclear : ∀ i, i < s.guardLength → (encodeCanvas s).getLsbD i = false) {c st : Nat}
    (h : FirstEqualEntry s (requestedEntry s) c st) :
    echoDecode (synth s (encodeCanvas s)) = withPatternMessage (echoed s) c st :=
  echoDecode_synth_of_message hg hsep hclear ((decodeMessage_of_patterns (s := echoed s) hm).trans
    (patternDecode_of_first (s := echoed s) hg ((firstEqualEntry_echoed_iff hg hm hsep c st).2 h)))

/-- R159: the first equal entry is the requested one exactly when no earlier entry holds its bits. -/
theorem FirstEqualEntry.eq_request_iff (hr : PatternRequestLegal s) {c st : Nat}
    (h : FirstEqualEntry s (requestedEntry s) c st) :
    (BitVec.ofNat 32 c = s.reqCmd ∧ BitVec.ofNat 32 st = s.reqSidx) ↔
      ∀ c' st', c' < s.ncmd → st' < s.nstate → ScannedBefore c' st' s.reqCmd.toNat s.reqSidx.toNat →
        ¬EntryEquals s (requestedEntry s) c' st' := by
  obtain ⟨hc, hst⟩ := h.toNat_indices
  obtain ⟨hcmd, hsidx⟩ := hr
  rw [BitVec.toNat_eq, BitVec.toNat_eq, hc, hst]
  constructor
  · rintro ⟨rfl, rfl⟩
    obtain ⟨_, _, _, hfirst⟩ := h
    exact hfirst
  · exact fun hnone => h.unique ⟨hcmd, hsidx, entryEquals_requestedEntry s, hnone⟩

end

/-- Settles O52: the echo decodes the demodulated canvas, which below `N` is the requested entry. -/
theorem encodedPatternDecodesToTheRequest : Obligations.EncodedPatternDecodesToTheRequest := by
  unfold Obligations.EncodedPatternDecodesToTheRequest
  intro s hg hm ht hsep hr
  obtain ⟨_, _, _, _, _, hguard⟩ := id hg
  have hcanvas : ∀ i, i < s.guardLength → (encodeCanvas s).getLsbD i = (requestedEntry s).getLsbD i :=
    fun i hi => getLsbD_encodeCanvas_below hg hm (by omega)
  refine ⟨_, exec_encode_of_requestPasses hg (modeLegal_of_tableLegal hm ht)
    (requestPasses_of_patternRequestLegal hm hr), rfl, fun ⟨i, hi, hone⟩ => ?guard, fun hclear => ?message⟩
  case guard =>
    rw [echoDecode_synth_of_guard hg hsep ⟨i, hi, (hcanvas i hi).trans hone⟩]
    exact ⟨rfl, rfl, rfl⟩
  case message =>
    obtain ⟨c, st, hfirst⟩ := exists_firstEqualEntry_requested hg hm hsep hr
    rw [echoDecode_of_first hg hm hsep (fun i hi => (hcanvas i hi).trans (hclear i hi)) hfirst]
    refine ⟨rfl, fun c' st' hc' hst' heq' hfirst' => ?_, hfirst.eq_request_iff hr⟩
    obtain ⟨rfl, rfl⟩ := hfirst.unique ⟨hc', hst', heq', hfirst'⟩
    exact hfirst.toNat_indices

end Sys2Proof.Machine
end

section
/-! The family of `45_commands.md`: NOP (R163), how DECODE ends (R125, R165, R166) and what of it DEMOD and BVDECODE do,
what a failed ENCODE leaves (R170), the train and the echo of an ENCODE (R168, R169), and the write-set table (R171). -/

namespace Sys2Proof.Machine

/-- Settles O23: the word 0 is NOP's, and NOP only ends. -/
theorem nopSetsOnlyStatus : Obligations.NopSetsOnlyStatus := by
  unfold Obligations.NopSetsOnlyStatus
  exact ⟨by decide, fun _ => rfl⟩

/-! ## The OK bit (R18) -/

theorem getLsbD_one_okStatus (op : Byte) (amb : Bool) : (okStatus op amb).getLsbD 1 = true := by
  obtain ⟨_, _, _, _, _, hok, _⟩ := okStatus_fields op amb
  exact hok

theorem getLsbD_one_failStatus (op : Byte) (amb : Bool) (f : Failure) : (failStatus op amb f).getLsbD 1 = false := by
  obtain ⟨_, _, _, _, _, hok, _⟩ := failStatus_fields op amb f
  exact hok

/-! ## How the steps of DECODE end (R125, R165) -/

section
variable {s t : State} {f : Failure} {amb : Bool}

/-- R165: a frame check that fails ends the steps before any write. -/
theorem decodeTrain_of_frameCheck_eq_some (h : frameCheck s = some f) : decodeTrain s = ⟨s, false, some f⟩ := by
  rw [decodeTrain, h]

/-- R125: AMB_STRICT stops an ambiguous train after the demodulation. -/
theorem decodeTrain_of_strict (hf : frameCheck s = none) (ha : demodAmb s = true) (hs : s.ambStrict = true) :
    decodeTrain s = ⟨demodBody s, true, some (.plain .ambiguousBit)⟩ := by
  rw [decodeTrain, hf, ha, hs]
  rfl

/-- R165: DECODE of a train whose steps end with a message. -/
theorem exec_decode_of_message (hg : GeometryLegal s) (hm : ModeLegal s) (h : decodeTrain s = ⟨t, amb, none⟩) :
    exec .decode s = .next { t with status := okStatus 0x07 amb } := by
  rw [exec, execDecode, (cfgAll_eq_none_iff s).2 ⟨hg, hm⟩, h]
  rfl

/-- R162, R165: DECODE of a train whose steps fail. -/
theorem exec_decode_of_failure (hg : GeometryLegal s) (hm : ModeLegal s) (h : decodeTrain s = ⟨t, amb, some f⟩) :
    exec .decode s = .next { t with
      msgStat := noMessageWord f.code.byte
      status := failWord 0x07 f.code.byte f.field amb } := by
  rw [exec, execDecode, (cfgAll_eq_none_iff s).2 ⟨hg, hm⟩, h, ← noMessageStat_eq_noMessageWord,
    ← failStatus_eq_failWord]
  rfl

/-- R169: the echo of a train whose steps end with a message. -/
theorem echoDecode_of_message (h : decodeTrain s = ⟨t, amb, none⟩) : echoDecode s = t := by
  rw [echoDecode, h]

/-- R169: the echo of a train whose steps fail. -/
theorem echoDecode_of_failure (h : decodeTrain s = ⟨t, amb, some f⟩) :
    echoDecode s = { t with msgStat := noMessageWord f.code.byte } := by
  rw [echoDecode, h, ← noMessageStat_eq_noMessageWord]

end

/-! ## DECODE of a framed train (R165) -/

section
variable {s : State}

/-- R18, R125: a completed DECODE reports in STATUS.AMB whether a pair was ambiguous. -/
theorem okStatus_decode_amb (hg : GeometryLegal s) :
    (SomeAmbiguous s → okStatus 0x07 (demodAmb s) = 0x07FF0006) ∧
      (¬SomeAmbiguous s → okStatus 0x07 (demodAmb s) = 0x07FF0002) := by
  refine ⟨fun ha => ?_, fun hn => ?_⟩
  · rw [(demodAmb_iff hg).2 ha]; rfl
  · rw [demodAmb_eq_false hg hn]; rfl

theorem failStatus_noMatch_decode_amb (hg : GeometryLegal s) :
    (SomeAmbiguous s → failStatus 0x07 (demodAmb s) (.plain .noMatch) = 0x07FF1304) ∧
      (¬SomeAmbiguous s → failStatus 0x07 (demodAmb s) (.plain .noMatch) = 0x07FF1300) := by
  refine ⟨fun ha => ?_, fun hn => ?_⟩
  · rw [(demodAmb_iff hg).2 ha]; rfl
  · rw [demodAmb_eq_false hg hn]; rfl

/-- R165: DECODE of a framed train whose demodulated vector decodes. -/
theorem exec_decode_of_decodeMessage (hg : GeometryLegal s) (hm : ModeLegal s) (hf : TrainFramed s)
    (ha : ¬(SomeAmbiguous s ∧ s.ctrl.getLsbD 0 = true)) {t : State} (h : decodeMessage (demodBody s) = .ok t) :
    exec .decode s = .next { t with status := okStatus 0x07 (demodAmb s) } := by
  refine exec_decode_of_message hg hm ?_
  rw [decodeTrain_of_demodulated hg hf ha, h]
  rfl

/-- R125, R162: DECODE of a framed train that AMB_STRICT stops. -/
theorem exec_decode_of_strict (hg : GeometryLegal s) (hm : ModeLegal s) (hf : TrainFramed s) (ha : SomeAmbiguous s)
    (hs : s.ctrl.getLsbD 0 = true) :
    exec .decode s = .next { demodBody s with msgStat := 0x1200, status := 0x07FF1204 } :=
  exec_decode_of_failure hg hm
    (decodeTrain_of_strict ((frameCheck_eq_none_iff hg).2 hf) ((demodAmb_iff hg).2 ha) hs)

end

/-- Settles O45: DECODE demodulates the train, and AMB_STRICT or the message decode of that vector says how it ends. -/
theorem decodeProducesTheMessageOfTheTrain : Obligations.DecodeProducesTheMessageOfTheTrain := by
  unfold Obligations.DecodeProducesTheMessageOfTheTrain
  intro s hg hml hf
  refine ⟨fun hs p hp ha hlt => ?strict, fun ha hm hdecodes => ?fields, fun ha hm =>
    ⟨fun c st hc hst heq hfirst => ?pattern, fun hnone => ?noMatch⟩⟩
  case strict =>
    exact ⟨_, exec_decode_of_strict hg hml hf ⟨p, hp, ha⟩ hs, rfl, fun i _ => getLsbD_demodVector_iff hg i,
      demodBody_ambPos_of_first hg hp ha hlt⟩
  case fields =>
    have hdecode := fieldDecode_of_decodes hdecodes
    obtain ⟨hstat, hmsg⟩ := message_of_fieldDecode_eq_ok hdecode
    exact ⟨_, exec_decode_of_decodeMessage hg hml hf ha ((decodeMessage_of_fields (s := demodBody s) hm).trans hdecode),
      rfl, hstat, hmsg, okStatus_decode_amb hg⟩
  case pattern =>
    have hdecode : patternDecode (demodBody s) = .ok (withPatternMessage (demodBody s) c st) :=
      patternDecode_of_first (s := demodBody s) hg ⟨hc, hst, heq, hfirst⟩
    exact ⟨_, exec_decode_of_decodeMessage hg hml hf ha
      ((decodeMessage_of_patterns (s := demodBody s) hm).trans hdecode), rfl, okStatus_decode_amb hg⟩
  case noMatch =>
    have hdecode := patternDecode_of_none (s := demodBody s) hg hnone
    exact ⟨_, exec_decode_of_no_message hg hml hf ha ((decodeMessage_of_patterns (s := demodBody s) hm).trans hdecode),
      rfl, failStatus_noMatch_decode_amb hg⟩

/-! ## DECODE against VALIDATE (R166) -/

section
variable {s v : State}

/-- R126: VALIDATE reports success only of a framed train under a legal geometry. -/
theorem framed_of_exec_validate (h : exec .validate s = .next v) (hok : v.status.getLsbD 1 = true) :
    GeometryLegal s ∧ TrainFramed s := by
  obtain ⟨_, he⟩ | ⟨_, f, _, he⟩ | ⟨hg, hf, _⟩ := execValidate_cases s
  · obtain rfl := Host.Outcome.next.inj (h.symm.trans he)
    exact absurd ((getLsbD_one_failStatus _ _ _).symm.trans hok) (by decide)
  · obtain rfl := Host.Outcome.next.inj (h.symm.trans he)
    exact absurd ((getLsbD_one_failStatus _ _ _).symm.trans hok) (by decide)
  · exact ⟨hg, (frameCheck_eq_none_iff hg).1 hf⟩

/-- R126: a failure VALIDATE reports is the geometry's or that of the first frame check to fail. -/
theorem failure_of_exec_validate (h : exec .validate s = .next v) (hfail : v.status.getLsbD 1 = false) :
    (¬GeometryLegal s ∧ errCode v.status = 0x31) ∨
      ∃ f, GeometryLegal s ∧ frameCheck s = some f ∧ errCode v.status = f.code.byte := by
  obtain ⟨hn, he⟩ | ⟨hg, f, hf, he⟩ | ⟨_, _, he⟩ := execValidate_cases s <;>
    obtain rfl := Host.Outcome.next.inj (h.symm.trans he)
  · exact .inl ⟨hn, errCode_failStatus _ _ _⟩
  · exact .inr ⟨f, hg, hf, errCode_failStatus _ _ _⟩
  · exact absurd ((getLsbD_one_okStatus _ _).symm.trans hfail) (by decide)

/-- R126, R175: no frame check names a field. -/
theorem frameCheck_field {f : Failure} (h : frameCheck s = some f) : f.field = 0xFF := by
  obtain rfl | rfl | rfl | rfl := frameCheck_eq_some h <;> rfl

end

/-- Settles O47: DECODE makes VALIDATE's checks, in the same order, before it writes BV. -/
theorem decodeRejectsWhatValidateRejects : Obligations.DecodeRejectsWhatValidateRejects := by
  unfold Obligations.DecodeRejectsWhatValidateRejects
  intro s v hm hv hfail
  obtain ⟨hg, hcode⟩ | ⟨f, hg, hf, hcode⟩ := failure_of_exec_validate hv hfail <;> rw [hcode]
  · obtain ⟨_, hdecode, _⟩ := exec_of_cfgAll_eq_some (cfgAll_of_illegal hg)
    exact hdecode
  · rw [exec_decode_of_failure hg hm (decodeTrain_of_frameCheck_eq_some hf), frameCheck_field hf]

/-! ## DECODE against DEMOD and BVDECODE (R125, R165) -/

/-- The state with other reports in MSG_STAT and STATUS. -/
def State.withReport (s : State) (stat status : Word) : State := { s with msgStat := stat, status := status }

/-- The state with another word in STATUS. -/
def State.withStatus (s : State) (status : Word) : State := { s with status := status }

section
variable (s : State) (stat status : Word)

theorem fieldDecode_withReport :
    fieldDecode (s.withReport stat status) = (fieldDecode s).map (·.withStatus status) := by
  have hfail : fieldFailure (s.withReport stat status) = fieldFailure s := rfl
  unfold fieldDecode
  rw [hfail]
  split <;> rfl

theorem patternDecode_withReport :
    patternDecode (s.withReport stat status) = (patternDecode s).map (·.withStatus status) := by
  have hfind : (scanOrder (s.withReport stat status)).find? (entryMatches (s.withReport stat status)) =
    (scanOrder s).find? (entryMatches s) := rfl
  unfold patternDecode
  rw [hfind]
  split <;> rfl

/-- R164: a message decode reads neither report, and a message overwrites the one in MSG_STAT. -/
theorem decodeMessage_withReport :
    decodeMessage (s.withReport stat status) = (decodeMessage s).map (·.withStatus status) := by
  have hmode : (s.withReport stat status).mode = s.mode := rfl
  unfold decodeMessage
  rw [hmode]
  split
  · exact fieldDecode_withReport s stat status
  · exact patternDecode_withReport s stat status

end

/-- R18: DECODE's failure word has BVDECODE's code and field, its own LAST_OP, and AMB. -/
theorem failWord_decode_eq (code field : Byte) (amb : Bool) :
    failWord 0x07 code field amb =
      BitVec.ofNat 32 (7 * 2 ^ 24 + (failWord 0x06 code field false).toNat % 2 ^ 24 + amb.toNat * 4) := by
  have hcode := code.isLt
  have hfield := field.isLt
  have hbvdecode : (failWord 0x06 code field false).toNat % 2 ^ 24 = field.toNat * 2 ^ 16 + code.toNat * 2 ^ 8 := by
    rw [BitVec.toNat_ofNat]
    simp
    omega
  rw [hbvdecode, ← Nat.add_assoc]
  rfl

/-- R18: DECODE's success word is BVDECODE's with its own LAST_OP, and AMB. -/
theorem okStatus_decode_eq (amb : Bool) :
    okStatus 0x07 amb = BitVec.ofNat 32 (7 * 2 ^ 24 + (0x06FF0002 : Word).toNat % 2 ^ 24 + amb.toNat * 4) := by
  cases amb <;> rfl

/-- R127: DEMOD of a train of the right length fails only under AMB_STRICT, and then after its writes. -/
theorem demod_of_checked {s d : State} (hg : GeometryLegal s) (hl : s.count = s.trainLength)
    (hd : exec .demod s = .next d) :
    (SomeAmbiguous s ∧ s.ctrl.getLsbD 0 = true ∧
        d = (demodBody s).withStatus (failStatus 0x05 true (.plain .ambiguousBit))) ∨
      (¬(SomeAmbiguous s ∧ s.ctrl.getLsbD 0 = true) ∧ d = (demodBody s).withStatus (okStatus 0x05 (demodAmb s))) := by
  rw [← demodAmb_iff hg]
  obtain ⟨hn, _⟩ | ⟨_, hne, _⟩ | ⟨_, _, ⟨ha, hs⟩, he⟩ | ⟨_, _, ha, he⟩ := execDemod_cases s
  · exact absurd hg hn
  · exact absurd hl hne
  · exact .inl ⟨ha, hs, Host.Outcome.next.inj (hd.symm.trans he)⟩
  · exact .inr ⟨ha, Host.Outcome.next.inj (hd.symm.trans he)⟩

/-- R164, R165: past AMB_STRICT, DECODE of a framed train is BVDECODE of what DEMOD leaves, but for STATUS. -/
theorem exec_decode_of_exec_bvdecode {s u : State} {w : Word} (hg : GeometryLegal s) (hm : ModeLegal s)
    (hf : TrainFramed s) (ha : ¬(SomeAmbiguous s ∧ s.ctrl.getLsbD 0 = true))
    (hu : exec .bvdecode ((demodBody s).withStatus w) = .next u) :
    exec .decode s = .next { u with
      status := BitVec.ofNat 32 (7 * 2 ^ 24 + u.status.toNat % 2 ^ 24 + (demodAmb s).toNat * 4) } := by
  have htrain := decodeTrain_of_demodulated hg hf ha
  have hmessage : decodeMessage ((demodBody s).withStatus w) = (decodeMessage (demodBody s)).map (·.withStatus w) :=
    decodeMessage_withReport (demodBody s) s.msgStat w
  cases hdecode : decodeMessage (demodBody s) with
  | error f =>
    rw [hdecode] at htrain hmessage
    have hbvdecode := exec_bvdecode_of_no_message (s := (demodBody s).withStatus w) hg hm hmessage
    obtain rfl := Host.Outcome.next.inj (hu.symm.trans hbvdecode)
    rw [exec_decode_of_failure hg hm htrain, failWord_decode_eq]
    rfl
  | ok t =>
    rw [hdecode] at htrain hmessage
    have hbvdecode := exec_bvdecode_of_message (s := (demodBody s).withStatus w) hg hm hmessage
    obtain rfl := Host.Outcome.next.inj (hu.symm.trans hbvdecode)
    rw [exec_decode_of_message hg hm htrain, okStatus_decode_eq]
    rfl

/-- Settles O46: DEMOD leaves the state whose BV DECODE goes on to decode, and its STATUS tells AMB_STRICT's branch. -/
theorem decodeIsValidateDemodBvdecode : Obligations.DecodeIsValidateDemodBvdecode := by
  unfold Obligations.DecodeIsValidateDemodBvdecode
  intro s v d hm hv hvalid hd
  obtain ⟨hg, hf⟩ := framed_of_exec_validate hv (by rw [hvalid]; decide)
  obtain ⟨hl, _⟩ := id hf
  obtain ⟨ha, hs, rfl⟩ | ⟨ha, rfl⟩ := demod_of_checked hg hl hd
  · refine ⟨fun hok => ?_, fun _ => exec_decode_of_strict hg hm hf ha hs⟩
    exact absurd ((getLsbD_one_failStatus _ _ _).symm.trans hok) (by decide)
  · refine ⟨fun _ u hu => ?_, fun hfail => ?_⟩
    · obtain ⟨_, _, _, _, hamb, _⟩ := okStatus_fields 0x05 (demodAmb s)
      rw [exec_decode_of_exec_bvdecode hg hm hf ha hu, State.withStatus, hamb]
    · exact absurd ((getLsbD_one_okStatus _ _).symm.trans hfail) (by decide)

/-! ## ENCODE fails as REQCHK does (R170) -/

/-- R167, R168: both commands fail with the same failure of the same checks, or the request passes them all. -/
theorem reqchk_encode_cases (s : State) :
    (∃ f, exec .reqchk s = .next { s with status := failStatus 0x08 false f } ∧
        exec .encode s = .next { s with status := failStatus 0x09 false f }) ∨
      (GeometryLegal s ∧ ModeLegal s ∧ RequestPasses s) := by
  simp only [failStatus_eq_failWord]
  cases hc : cfgAll s with
  | some f =>
    obtain ⟨_, _, hreqchk, hencode⟩ := exec_of_cfgAll_eq_some hc
    exact .inl ⟨f, hreqchk, hencode⟩
  | none =>
    obtain ⟨hg, hm⟩ := (cfgAll_eq_none_iff s).1 hc
    cases hr : requestCheck s with
    | some f => exact .inl ⟨f, exec_of_requestCheck_eq_some hg hm hr⟩
    | none => exact .inr ⟨hg, hm, (requestCheck_eq_none_iff s).1 hr⟩

/-- Settles O48: a check that fails ends both commands before any write but STATUS's. -/
theorem failedEncodeChangesOnlyStatus : Obligations.FailedEncodeChangesOnlyStatus := by
  unfold Obligations.FailedEncodeChangesOnlyStatus
  intro s
  obtain ⟨f, hreqchk, hencode⟩ | ⟨hg, hm, hr⟩ := reqchk_encode_cases s
  · obtain ⟨_, hfield, hcode, _, _, hok, _⟩ := failStatus_fields 0x09 false f
    obtain ⟨_, hfield', hcode', _, _, hok', _⟩ := failStatus_fields 0x08 false f
    exact ⟨_, _, hencode, hreqchk, fun _ => rfl, iff_of_true hok hok',
      fun _ => ⟨hcode.trans hcode'.symm, hfield.trans hfield'.symm⟩⟩
  · have hok : ¬(0x09FF0002 : Word).getLsbD 1 = false := by decide
    have hok' : ¬(0x08FF0002 : Word).getLsbD 1 = false := by decide
    exact ⟨_, _, exec_encode_of_requestPasses hg hm hr, exec_reqchk_of_requestPasses hg hm hr,
      fun hfail => absurd hfail hok, iff_of_false hok hok', fun hfail => absurd hfail hok⟩

/-! ## The codes of a decode that ends after the frame checks (R173) -/

/-- R173: an error a decode meets once the demodulated vector is in BV. -/
def ErrCode.AfterFrame (c : ErrCode) : Prop :=
  c = .ambiguousBit ∨ c = .syncMismatch ∨ c = .invalidState ∨ c = .noMatch

/-- R171: the errors of a decode that ends before any write to BV and AMB_POS. -/
abbrev BeforeBodyWrites (code : Byte) : Prop :=
  code = 0x31 ∨ code = 0x01 ∨ code = 0x02 ∨ code = 0x03 ∨ code = 0x04

theorem ErrCode.AfterFrame.not_beforeBodyWrites {c : ErrCode} (h : c.AfterFrame) : ¬BeforeBodyWrites c.byte := by
  obtain rfl | rfl | rfl | rfl := h <;> decide

theorem ErrCode.afterFrame_of_byte {c : ErrCode} (h : c.byte = 0x10 ∨ c.byte = 0x11) : c.AfterFrame := by
  revert h
  unfold AfterFrame
  cases c <;> decide

/-- R137, R153: a message decode fails in a field's test or in the scan of the table. -/
theorem decodeMessage_error_afterFrame {s : State} {f : Failure} (h : decodeMessage s = .error f) :
    f.code.AfterFrame := by
  cases hm : s.mode with
  | fields =>
    rw [decodeMessage_of_fields hm] at h
    have hnot : ¬∀ k, FieldDecodes s k := fun hd => by
      rw [fieldDecode_of_decodes hd] at h
      cases h
    obtain ⟨k, c, _, hc, he⟩ := fieldDecode_of_not_decodes hnot
    obtain rfl := Except.error.inj (h.symm.trans he)
    refine ErrCode.afterFrame_of_byte (c := c) ?_
    rw [hc, fieldErrorCode]
    split <;> simp
  | patterns =>
    rw [decodeMessage_of_patterns hm] at h
    obtain rfl := patternDecode_eq_error h
    exact .inr (.inr (.inr rfl))

/-- R165: the three ways the steps of DECODE end: before the demodulation, after it, and with a message. -/
theorem decodeTrain_ends (s : State) :
    (∃ f, decodeTrain s = ⟨s, false, some f⟩) ∨
      (∃ f, f.code.AfterFrame ∧ decodeTrain s = ⟨demodBody s, demodAmb s, some f⟩) ∨
      ∃ t, decodeMessage (demodBody s) = .ok t ∧ decodeTrain s = ⟨t, demodAmb s, none⟩ := by
  obtain ⟨f, _, h⟩ | ⟨_, ha, _, h⟩ | ⟨_, _, f, hd, h⟩ | ⟨_, _, t, hd, h⟩ := decodeTrain_cases s
  · exact .inl ⟨f, h⟩
  · rw [← ha] at h
    exact .inr (.inl ⟨_, .inl rfl, h⟩)
  · exact .inr (.inl ⟨f, decodeMessage_error_afterFrame hd, h⟩)
  · exact .inr (.inr ⟨t, hd, h⟩)

/-! ## What MSG_STAT says of a decode (R26) -/

theorem errCode_noMessageWord (code : Byte) : errCode (noMessageWord code) = code := by
  have hcode := code.isLt
  exact extractLsb'_ofNat_eq (by omega)

theorem errCode_fieldMessageStat (p : Byte) : errCode (fieldMessageStat p) = 0 := by
  refine BitVec.eq_of_getLsbD_eq fun i hi => ?_
  have hp : p.getLsbD (8 + i) = false := BitVec.getLsbD_of_ge _ _ (by omega)
  rw [BitVec.getLsbD_extractLsb', getLsbD_fieldMessageStat, hp, decide_eq_false (show ¬8 + i = 31 by omega)]
  simp

/-- R26: a message is VALID and comes with no code. -/
theorem msgStat_of_decodeMessage {s t : State} (h : decodeMessage s = .ok t) :
    t.msgStat.getLsbD 31 = true ∧ errCode t.msgStat = 0 := by
  obtain ⟨_, hf⟩ | ⟨_, hp⟩ := decodeMessage_eq_ok h
  · obtain ⟨_, rfl⟩ := fieldDecode_eq_ok hf
    refine ⟨?_, errCode_fieldMessageStat _⟩
    show (fieldMessageStat (presentMask s)).getLsbD 31 = true
    rw [getLsbD_fieldMessageStat]
    rfl
  · obtain ⟨_, _, _, _, _, rfl⟩ := patternDecode_eq_ok hp
    exact ⟨(by decide : patternMessageStat.getLsbD 31 = true), (by decide : errCode patternMessageStat = 0)⟩

/-! ## The write sets of the decodes (R171) -/

/-- R171: which message registers a decode from `s` to `t` keeps, `done` whether it produced a message. -/
structure MessageRow (s t : State) (done : Bool) : Prop where
  fields : done = false ∨ s.mode = .patterns → t.msg = s.msg
  patterns : done = false ∨ s.mode = .fields → t.msgCmd = s.msgCmd ∧ t.msgSidx = s.msgSidx

/-- R171: the row of DECODE, from `s` to `t`, with the code it reports. -/
structure DecodeRow (s t : State) (done : Bool) (code : Byte) : Prop extends MessageRow s t done where
  frame : t = { s with
    status := t.status, ambPos := t.ambPos, bv := t.bv
    msgStat := t.msgStat, msg := t.msg, msgCmd := t.msgCmd, msgSidx := t.msgSidx }
  body : BeforeBodyWrites code → t.ambPos = s.ambPos ∧ t.bv = s.bv

section
variable {s t : State} {done : Bool} {code : Byte} {stat status : Word}

/-- R138, R154: a message is written to the registers of the selected strategy. -/
theorem messageRow_of_decodeMessage (h : decodeMessage s = .ok t) : MessageRow s t true := by
  obtain ⟨hm, hf⟩ | ⟨hm, hp⟩ := decodeMessage_eq_ok h
  · obtain ⟨_, rfl⟩ := fieldDecode_eq_ok hf
    exact ⟨fun hor => by simp [hm] at hor, fun _ => ⟨rfl, rfl⟩⟩
  · obtain ⟨_, _, _, _, _, rfl⟩ := patternDecode_eq_ok hp
    exact ⟨fun _ => rfl, fun hor => by simp [hm] at hor⟩

theorem decodeRow_of_reports : DecodeRow s (s.withReport stat status) done code where
  fields _ := rfl
  patterns _ := ⟨rfl, rfl⟩
  frame := rfl
  body _ := ⟨rfl, rfl⟩

theorem decodeRow_of_demodBody (hcode : ¬BeforeBodyWrites code) :
    DecodeRow s ((demodBody s).withReport stat status) done code where
  fields _ := rfl
  patterns _ := ⟨rfl, rfl⟩
  frame := rfl
  body h := absurd h hcode

theorem decodeRow_of_message (h : decodeMessage (demodBody s) = .ok t) :
    DecodeRow s (t.withStatus status) true 0 where
  fields := (messageRow_of_decodeMessage h).fields
  patterns := (messageRow_of_decodeMessage h).patterns
  frame := by
    rw [decodeMessage_frame h]
    rfl
  body h := absurd h (by decide)

/-- R169, R171: the echo writes what DECODE's row lists, as MSG_STAT tells it. -/
theorem decodeRow_echoDecode (s : State) (status : Word) :
    DecodeRow s ((echoDecode s).withStatus status) ((echoDecode s).msgStat.getLsbD 31)
      (errCode (echoDecode s).msgStat) := by
  obtain ⟨f, h⟩ | ⟨f, hf, h⟩ | ⟨t, hd, h⟩ := decodeTrain_ends s
  · rw [echoDecode_of_failure h]
    exact decodeRow_of_reports
  · rw [echoDecode_of_failure h]
    refine decodeRow_of_demodBody ?_
    rw [errCode_noMessageWord]
    exact hf.not_beforeBodyWrites
  · obtain ⟨hvalid, hcode⟩ := msgStat_of_decodeMessage hd
    rw [echoDecode_of_message h, hvalid, hcode]
    exact decodeRow_of_message hd

/-- R165, R171: DECODE writes what its row lists, as STATUS tells it. -/
theorem decodeRow_exec_decode (h : exec .decode s = .next t) :
    DecodeRow s t (t.status.getLsbD 1) (errCode t.status) := by
  cases hc : cfgAll s with
  | some f =>
    obtain ⟨_, hdecode, _⟩ := exec_of_cfgAll_eq_some hc
    obtain rfl := Host.Outcome.next.inj (h.symm.trans hdecode)
    exact decodeRow_of_reports
  | none =>
    obtain ⟨hg, hm⟩ := (cfgAll_eq_none_iff s).1 hc
    obtain ⟨f, hd⟩ | ⟨f, hf, hd⟩ | ⟨u, hu, hd⟩ := decodeTrain_ends s
    · obtain rfl := Host.Outcome.next.inj (h.symm.trans (exec_decode_of_failure hg hm hd))
      exact decodeRow_of_reports
    · obtain rfl := Host.Outcome.next.inj (h.symm.trans (exec_decode_of_failure hg hm hd))
      refine decodeRow_of_demodBody ?_
      rw [← failStatus_eq_failWord, errCode_failStatus]
      exact hf.not_beforeBodyWrites
    · obtain rfl := Host.Outcome.next.inj (h.symm.trans (exec_decode_of_message hg hm hd))
      rw [getLsbD_one_okStatus, errCode_okStatus]
      exact decodeRow_of_message hu

end

/-! ## The train and the echo of an ENCODE (R130, R168, R169) -/

section
variable {s : State}

/-- R168: what ENCODE leaves of a request that passes. -/
def encoded (s : State) : State := (echoDecode (synth s (encodeCanvas s))).withStatus 0x09FF0002

/-- R169: the echo leaves the synthesised train and the configuration as they are. -/
theorem encoded_frame (s : State) : encoded s = { synth s (encodeCanvas s) with
    status := (encoded s).status, ambPos := (encoded s).ambPos, bv := (encoded s).bv
    msgStat := (encoded s).msgStat, msg := (encoded s).msg
    msgCmd := (encoded s).msgCmd, msgSidx := (encoded s).msgSidx } :=
  (decodeRow_echoDecode (synth s (encodeCanvas s)) 0x09FF0002).frame

theorem pulseAt_encoded (hg : GeometryLegal s) (p : Nat) :
    (encoded s).pulseAt p = trainPulse s (encodeCanvas s) p := by
  rw [encoded_frame]
  exact pulseAt_synth hg _ p

theorem toNat_pulseCount_encoded (s : State) : (encoded s).pulseCount.toNat = s.trainLength := by
  have hlt : s.trainLength < 1024 := bitsOf_lt _ _ _
  rw [encoded_frame]
  exact Nat.mod_eq_of_lt (by omega)

theorem guardClear_encoded_iff (s : State) : GuardClear (encoded s) ↔ GuardClear (synth s (encodeCanvas s)) := by
  rw [encoded_frame]
  exact Iff.rfl

theorem pairHigh_encoded_iff (s : State) (i : Nat) :
    PairHigh (encoded s) i ↔ PairHigh (synth s (encodeCanvas s)) i := by
  rw [encoded_frame]
  exact Iff.rfl

/-- R128, R130: below TRAIN_LEN the train of the canvas, and the old durations from there on. -/
theorem pulseAt_encoded_header (hg : GeometryLegal s) {p : Nat} (hp : p < s.headerLength) :
    (encoded s).pulseAt p = if p = 0 then s.hdrD0 else s.hdrD1 := by
  rw [pulseAt_encoded hg, trainPulse, if_pos hp]

theorem pulseAt_encoded_pair (hg : GeometryLegal s) {i : Nat} (hi : i < bodyBits s) :
    (encoded s).pulseAt (s.headerLength + 2 * i) = (if (encodeCanvas s).getLsbD i then s.highD0 else s.lowD0) ∧
      (encoded s).pulseAt (s.headerLength + 2 * i + 1) =
        (if (encodeCanvas s).getLsbD i then s.highD1 else s.lowD1) := by
  obtain ⟨h0, h1⟩ := pulseAt_synth_pair hg (encodeCanvas s) hi
  rw [pulseAt_encoded hg, pulseAt_encoded hg, ← pulseAt_synth hg, ← pulseAt_synth hg, h0, h1, waveform]
  cases (encodeCanvas s).getLsbD i <;> exact ⟨rfl, rfl⟩

theorem pulseAt_encoded_footer (hg : GeometryLegal s) {j : Nat} (hj : j < s.footerLength) :
    (encoded s).pulseAt (s.trainLength - s.footerLength + j) = if j = 0 then s.ftrD0 else s.ftrD1 := by
  have ht := trainLength_eq hg
  rw [pulseAt_encoded hg, trainPulse, if_neg (by omega), if_neg (by omega), if_pos (by omega)]
  exact if_congr (by omega) rfl rfl

theorem pulseAt_encoded_above (hg : GeometryLegal s) {p : Nat} (hp : s.trainLength ≤ p) :
    (encoded s).pulseAt p = s.pulseAt p := by
  have ht := trainLength_eq hg
  rw [pulseAt_encoded hg, trainPulse, if_neg (by omega), if_neg (by omega), if_neg (by omega)]

/-- R131: the synthesised train passes the frame checks before the guard's. -/
theorem frameCheck_synth_of_guard (hg : GeometryLegal s) {canvas : BitVec 256} (h : ¬GuardClear (synth s canvas)) :
    frameCheck (synth s canvas) = some (.plain .startSequenceMismatch) :=
  frameCheck_of_guard (s := synth s canvas) hg (count_synth s canvas) (headerInWindow_synth hg canvas)
    (footerInWindow_synth hg canvas) h

theorem trainFramed_synth (hg : GeometryLegal s) {canvas : BitVec 256} (h : GuardClear (synth s canvas)) :
    TrainFramed (synth s canvas) :=
  ⟨count_synth s canvas, headerInWindow_synth hg canvas, footerInWindow_synth hg canvas, h⟩

/-- R169: the three ways the echo can end: in the guard, without a message and with one. -/
theorem encoded_cases (hg : GeometryLegal s) :
    (¬GuardClear (synth s (encodeCanvas s)) ∧
        encoded s = (synth s (encodeCanvas s)).withReport 0x400 0x09FF0002) ∨
      (GuardClear (synth s (encodeCanvas s)) ∧ ∃ f, decodeMessage (echoed s) = .error f ∧
        encoded s = (echoed s).withReport (noMessageWord f.code.byte) 0x09FF0002) ∨
      (GuardClear (synth s (encodeCanvas s)) ∧ ∃ t, decodeMessage (echoed s) = .ok t ∧
        encoded s = t.withStatus 0x09FF0002) := by
  by_cases hguard : GuardClear (synth s (encodeCanvas s))
  · have htrain := decodeTrain_of_demodulated (s := synth s (encodeCanvas s)) hg (trainFramed_synth hg hguard)
      fun ha => not_someAmbiguous_synth hg _ ha.1
    cases hd : decodeMessage (echoed s) with
    | error f =>
      rw [← echoed, hd] at htrain
      exact .inr (.inl ⟨hguard, f, rfl, by rw [encoded, echoDecode_of_failure htrain]; rfl⟩)
    | ok t =>
      rw [← echoed, hd] at htrain
      exact .inr (.inr ⟨hguard, t, rfl, by rw [encoded, echoDecode_of_message htrain]⟩)
  · refine .inl ⟨hguard, ?_⟩
    rw [encoded, echoDecode_of_failure (decodeTrain_of_frameCheck_eq_some (frameCheck_synth_of_guard hg hguard))]
    rfl

/-- R169: an echo that fails the guard keeps BV and AMB_POS. -/
theorem encoded_of_guard (hg : GeometryLegal s) (h : ¬GuardClear (synth s (encodeCanvas s))) :
    encoded s = (synth s (encodeCanvas s)).withReport 0x400 0x09FF0002 := by
  obtain ⟨_, he⟩ | ⟨hclear, _⟩ | ⟨hclear, _⟩ := encoded_cases hg
  · exact he
  · exact absurd hclear h
  · exact absurd hclear h

/-- R131, R169: the echo behind a clear guard demodulates the train, none of whose pairs is ambiguous. -/
theorem encoded_of_clear_guard (hg : GeometryLegal s) (h : GuardClear (synth s (encodeCanvas s))) :
    (encoded s).bv = demodVector (synth s (encodeCanvas s)) ∧ (encoded s).ambPos = 0xFFFFFFFF := by
  have hpos := demodBody_ambPos_of_unambiguous (s := synth s (encodeCanvas s)) hg (not_someAmbiguous_synth hg _)
  obtain ⟨hguard, _⟩ | ⟨_, f, _, he⟩ | ⟨_, t, ht, he⟩ := encoded_cases hg
  · exact absurd h hguard
  · rw [he]
    exact ⟨rfl, hpos⟩
  · rw [he, decodeMessage_frame ht]
    exact ⟨rfl, hpos⟩

end

/-- Settles O49: the echo keeps the train that `synth()` wrote, and writes BV and AMB_POS behind a clear guard only. -/
theorem encodeWritesTheTrainOfTheRequest : Obligations.EncodeWritesTheTrainOfTheRequest := by
  unfold Obligations.EncodeWritesTheTrainOfTheRequest
  intro s hg hm hr
  refine ⟨encoded s, exec_encode_of_requestPasses hg hm hr, rfl, toNat_pulseCount_encoded s,
    fun p => pulseAt_encoded_header hg, fun i => pulseAt_encoded_pair hg, fun j => pulseAt_encoded_footer hg,
    fun p => pulseAt_encoded_above hg, fun hclear => ?clear, fun hguard => ?guard⟩
  case clear =>
    obtain ⟨hbv, hpos⟩ := encoded_of_clear_guard hg ((guardClear_encoded_iff s).1 hclear)
    refine ⟨hpos, fun i _ => ?_⟩
    rw [hbv, pairHigh_encoded_iff]
    exact getLsbD_demodVector_iff (s := synth s (encodeCanvas s)) hg i
  case guard =>
    rw [encoded_of_guard hg (mt (guardClear_encoded_iff s).2 hguard)]
    exact ⟨rfl, rfl, rfl⟩

/-! ## DECODE after ENCODE (R169) -/

/-- R153, R154: the decode of the entry the scan finds. -/
theorem patternDecode_of_find? {s : State} {c st : Nat} (h : (scanOrder s).find? (entryMatches s) = some (c, st)) :
    patternDecode s = .ok (withPatternMessage s c st) := by
  rw [patternDecode, h]
  rfl

/-- R138, R154: a decode of the state it left writes the same message again. -/
theorem decodeMessage_idem {s t : State} (h : decodeMessage s = .ok t) : decodeMessage t = .ok t := by
  obtain ⟨hm, hf⟩ | ⟨hm, hp⟩ := decodeMessage_eq_ok h
  · obtain ⟨hdecodes, ht⟩ := fieldDecode_eq_ok hf
    have hm' : t.mode = .fields := by rw [ht]; exact hm
    have hdecodes' : ∀ k, FieldDecodes t k := by rw [ht]; exact hdecodes
    rw [decodeMessage_of_fields hm', fieldDecode_of_decodes hdecodes', ht]
    rfl
  · cases hfind : (scanOrder s).find? (entryMatches s) with
    | none =>
      rw [patternDecode, hfind] at hp
      cases hp
    | some e =>
      obtain ⟨c, st⟩ := e
      obtain rfl := Except.ok.inj (hp.symm.trans (patternDecode_of_find? hfind))
      exact (decodeMessage_of_patterns (s := withPatternMessage s c st) hm).trans
        (patternDecode_of_find? (s := withPatternMessage s c st) hfind)

section
variable {s : State}

theorem geometryLegal_encoded (hg : GeometryLegal s) : GeometryLegal (encoded s) := by
  rw [encoded_frame]
  exact hg

theorem modeLegal_encoded (hm : ModeLegal s) : ModeLegal (encoded s) := by
  rw [encoded_frame]
  exact hm

theorem trainFramed_encoded (hg : GeometryLegal s) (h : GuardClear (synth s (encodeCanvas s))) :
    TrainFramed (encoded s) := by
  rw [encoded_frame]
  exact trainFramed_synth hg h

theorem not_someAmbiguous_encoded (hg : GeometryLegal s) : ¬SomeAmbiguous (encoded s) := by
  rw [encoded_frame]
  exact not_someAmbiguous_synth hg _

/-- R169: behind a clear guard BV and AMB_POS already hold what the demodulation writes. -/
theorem demodBody_encoded (hg : GeometryLegal s) (h : GuardClear (synth s (encodeCanvas s))) :
    demodBody (encoded s) = encoded s := by
  obtain ⟨hguard, _⟩ | ⟨_, f, _, he⟩ | ⟨_, t, ht, he⟩ := encoded_cases hg
  · exact absurd h hguard
  · rw [he]
    rfl
  · rw [he, decodeMessage_frame ht]
    rfl

/-- R169: DECODE of the train ENCODE left ends as the echo did, with nothing left to write but STATUS. -/
theorem exec_decode_encoded (hg : GeometryLegal s) (hm : ModeLegal s) :
    ∃ w, exec .decode (encoded s) = .next ((encoded s).withStatus w) := by
  have hg' := geometryLegal_encoded hg
  have hm' := modeLegal_encoded hm
  have ha' : ¬(SomeAmbiguous (encoded s) ∧ (encoded s).ctrl.getLsbD 0 = true) := fun ha =>
    not_someAmbiguous_encoded hg ha.1
  obtain ⟨hguard, he⟩ | ⟨hclear, f, hf, he⟩ | ⟨hclear, t, ht, he⟩ := encoded_cases hg
  · have hframe : frameCheck (encoded s) = some (.plain .startSequenceMismatch) := by
      rw [he]
      exact frameCheck_synth_of_guard hg hguard
    refine ⟨failWord 0x07 0x04 0xFF false,
      (exec_decode_of_failure hg' hm' (decodeTrain_of_frameCheck_eq_some hframe)).trans ?_⟩
    rw [he]
    rfl
  · have hmessage : decodeMessage (demodBody (encoded s)) = .error f := by
      rw [demodBody_encoded hg hclear, he, decodeMessage_withReport, hf]
      rfl
    refine ⟨failStatus 0x07 (demodAmb (encoded s)) f,
      (exec_decode_of_no_message hg' hm' (trainFramed_encoded hg hclear) ha' hmessage).trans ?_⟩
    rw [demodBody_encoded hg hclear, he]
    rfl
  · have hmessage : decodeMessage (demodBody (encoded s)) = .ok (encoded s) := by
      rw [demodBody_encoded hg hclear, he]
      refine (decodeMessage_withReport t t.msgStat 0x09FF0002).trans ?_
      rw [decodeMessage_idem ht]
      rfl
    exact ⟨_, exec_decode_of_decodeMessage hg' hm' (trainFramed_encoded hg hclear) ha' hmessage⟩

end

/-- Settles O50: the echo of ENCODE is DECODE of the train it wrote. -/
theorem decodeAfterEncodeChangesOnlyStatus : Obligations.DecodeAfterEncodeChangesOnlyStatus := by
  unfold Obligations.DecodeAfterEncodeChangesOnlyStatus
  intro s t ht hok
  obtain ⟨f, _, hencode⟩ | ⟨hg, hm, hr⟩ := reqchk_encode_cases s
  · obtain rfl := Host.Outcome.next.inj (ht.symm.trans hencode)
    exact absurd ((getLsbD_one_failStatus _ _ _).symm.trans hok) (by decide)
  · obtain rfl : t = encoded s := Host.Outcome.next.inj (ht.symm.trans (exec_encode_of_requestPasses hg hm hr))
    obtain ⟨w, hw⟩ := exec_decode_encoded hg hm
    exact ⟨_, hw, rfl⟩

/-! ## The write-set table (R171) -/

section
variable {s t : State}

theorem exec_b2v_row {a b : Nat} (h : exec (.b2v a b) s = .next t) :
    t = { s with status := t.status, result := t.result } ∧ (t.status.getLsbD 1 = false → t.result = s.result) := by
  obtain ⟨_, he⟩ | ⟨_, _, he⟩ := execB2v_cases a b s <;> obtain rfl := Host.Outcome.next.inj (h.symm.trans he)
  · exact ⟨rfl, fun _ => rfl⟩
  · exact ⟨rfl, fun hfail => absurd ((getLsbD_one_okStatus _ _).symm.trans hfail) (by decide)⟩

theorem exec_validate_row (h : exec .validate s = .next t) : t = { s with status := t.status } := by
  obtain ⟨_, he⟩ | ⟨_, _, _, he⟩ | ⟨_, _, he⟩ := execValidate_cases s <;>
    obtain rfl := Host.Outcome.next.inj (h.symm.trans he) <;> rfl

/-- R171: DEMOD keeps BV and AMB_POS when it ends in ConfigError or LengthMismatch. -/
theorem exec_demod_row (h : exec .demod s = .next t) :
    t = { s with status := t.status, ambPos := t.ambPos, bv := t.bv } ∧
      (errCode t.status = 0x31 ∨ errCode t.status = 0x01 → t.ambPos = s.ambPos ∧ t.bv = s.bv) := by
  obtain ⟨_, he⟩ | ⟨_, _, he⟩ | ⟨_, _, _, he⟩ | ⟨_, _, _, he⟩ := execDemod_cases s <;>
    obtain rfl := Host.Outcome.next.inj (h.symm.trans he)
  · exact ⟨rfl, fun _ => ⟨rfl, rfl⟩⟩
  · exact ⟨rfl, fun _ => ⟨rfl, rfl⟩⟩
  · refine ⟨rfl, fun hcode => absurd hcode ?_⟩
    rw [errCode_failStatus]
    decide
  · refine ⟨rfl, fun hcode => absurd hcode ?_⟩
    rw [errCode_okStatus]
    decide

theorem exec_bvdecode_row (h : exec .bvdecode s = .next t) :
    t = { s with
      status := t.status, msgStat := t.msgStat, msg := t.msg, msgCmd := t.msgCmd, msgSidx := t.msgSidx } ∧
      MessageRow s t (t.status.getLsbD 1) := by
  obtain ⟨_, _, he⟩ | ⟨_, _, _, _, he⟩ | ⟨_, _, u, hu, he⟩ := execBvdecode_cases s <;>
    obtain rfl := Host.Outcome.next.inj (h.symm.trans he)
  · exact ⟨rfl, fun _ => rfl, fun _ => ⟨rfl, rfl⟩⟩
  · exact ⟨rfl, fun _ => rfl, fun _ => ⟨rfl, rfl⟩⟩
  · refine ⟨?_, ?_⟩
    · rw [decodeMessage_frame hu]
    · rw [getLsbD_one_okStatus]
      exact ⟨(messageRow_of_decodeMessage hu).fields, (messageRow_of_decodeMessage hu).patterns⟩

theorem exec_reqchk_row (h : exec .reqchk s = .next t) : t = { s with status := t.status } := by
  obtain ⟨_, _, he⟩ | ⟨_, _, _, _, he⟩ | ⟨_, _, _, he⟩ := execReqchk_cases s <;>
    obtain rfl := Host.Outcome.next.inj (h.symm.trans he) <;> rfl

/-- R170, R171: ENCODE either fails with a write to STATUS alone, or leaves what `encoded` says. -/
theorem exec_encode_ends (h : exec .encode s = .next t) :
    (∃ f, t = s.withStatus (failStatus 0x09 false f)) ∨ (GeometryLegal s ∧ t = encoded s) := by
  obtain ⟨f, _, he⟩ | ⟨hg, hm, hr⟩ := reqchk_encode_cases s
  · exact .inl ⟨f, Host.Outcome.next.inj (h.symm.trans he)⟩
  · exact .inr ⟨hg, Host.Outcome.next.inj (h.symm.trans (exec_encode_of_requestPasses hg hm hr))⟩

/-- R169, R171: the echo of the synthesised train, whose MSG_STAT says 0x400 for a failed guard. -/
theorem decodeRow_encoded (s : State) : DecodeRow (synth s (encodeCanvas s)) (encoded s)
    ((encoded s).msgStat.getLsbD 31) (errCode (encoded s).msgStat) :=
  decodeRow_echoDecode _ _

theorem encoded_row (s : State) : encoded s = { s with
    status := (encoded s).status, ambPos := (encoded s).ambPos, bv := (encoded s).bv
    pulse := (encoded s).pulse, pulseCount := (encoded s).pulseCount
    msgStat := (encoded s).msgStat, msg := (encoded s).msg
    msgCmd := (encoded s).msgCmd, msgSidx := (encoded s).msgSidx } := by
  have hpulse : (encoded s).pulse = (synth s (encodeCanvas s)).pulse := by rw [encoded_frame]
  have hcount : (encoded s).pulseCount = (synth s (encodeCanvas s)).pulseCount := by rw [encoded_frame]
  rw [hpulse, hcount]
  exact encoded_frame s

theorem exec_encode_row (h : exec .encode s = .next t) :
    t = { s with
      status := t.status, ambPos := t.ambPos, bv := t.bv, pulse := t.pulse, pulseCount := t.pulseCount
      msgStat := t.msgStat, msg := t.msg, msgCmd := t.msgCmd, msgSidx := t.msgSidx } ∧
      (t.status.getLsbD 1 = false → t = { s with status := t.status }) ∧
      (∀ p, s.trainLength ≤ p → t.pulseAt p = s.pulseAt p) ∧
      (t.status.getLsbD 1 = true ∧ t.msgStat = 0x400 → t.ambPos = s.ambPos ∧ t.bv = s.bv) ∧
      MessageRow s t (t.msgStat.getLsbD 31) := by
  obtain ⟨f, rfl⟩ | ⟨hg, rfl⟩ := exec_encode_ends h
  · exact ⟨rfl, fun _ => rfl, fun _ _ => rfl, fun _ => ⟨rfl, rfl⟩, fun _ => rfl, fun _ => ⟨rfl, rfl⟩⟩
  · obtain ⟨⟨hfields, hpatterns⟩, _, hbody⟩ := decodeRow_encoded s
    refine ⟨encoded_row s, fun hfail => ?_, fun p => pulseAt_encoded_above hg, fun ⟨_, hstat⟩ => ?_, hfields, hpatterns⟩
    · exact absurd hfail (by decide : ¬(0x09FF0002 : Word).getLsbD 1 = false)
    · refine hbody ?_
      rw [hstat]
      decide

theorem runCommand_illegal_row {w : Word} {e : DecodeError} (hw : decode w = .error e)
    (h : runCommand w s = .next t) : t = { s with status := t.status } := by
  rw [runCommand, hw] at h
  obtain rfl := Host.Outcome.next.inj h
  rfl

end

/-- Settles O22: each row is what every ending of its command writes. -/
theorem commandsWriteOnlyTheirRows : Obligations.CommandsWriteOnlyTheirRows := by
  unfold Obligations.CommandsWriteOnlyTheirRows
  refine fun s t => ⟨fun h => ?nop, fun h => ?inrange, fun _ _ => exec_b2v_row, fun h => ?v2b, exec_validate_row,
    exec_demod_row, fun h => ?bvdecode, fun h => ?decode, exec_reqchk_row, fun h => ?encode,
    fun _ _ => runCommand_illegal_row⟩
  case nop => obtain rfl := Host.Outcome.next.inj h; rfl
  case inrange => obtain rfl := Host.Outcome.next.inj h; rfl
  case v2b => obtain rfl := Host.Outcome.next.inj h; rfl
  case bvdecode =>
    obtain ⟨hframe, hfields, hpatterns⟩ := exec_bvdecode_row h
    exact ⟨hframe, hfields, hpatterns⟩
  case decode =>
    obtain ⟨⟨hfields, hpatterns⟩, hframe, hbody⟩ := decodeRow_exec_decode h
    exact ⟨hframe, hbody, hfields, hpatterns⟩
  case encode =>
    obtain ⟨hframe, hfail, habove, hguard, hfields, hpatterns⟩ := exec_encode_row h
    exact ⟨hframe, hfail, habove, hguard, hfields, hpatterns⟩

end Sys2Proof.Machine
end

section
/-! The family of `60_exceptions.md`: the idle machine (R185), and the reports STATUS, MSG_STAT and AMB_POS, which no
step takes out of the tables of R173 and R175. -/

namespace Sys2Proof.Machine

/-- Settles O12. -/
theorem idleMachineHoldsItsState : Obligations.IdleMachineHoldsItsState := fun _ => step_idle

/-! ## Which failures a command may end with (R173, R175) -/

/-- R173, R175: the tables list the failure's code for the command with opcode `op`, and its field for the code. -/
structure Failure.Listed (f : Failure) (op : Byte) : Prop where
  reported : ReportedBy f.code.byte op
  field : NamesField f.code.byte f.field

/-- R175: an error at field `k` holds the number of one of the eight fields. -/
theorem Failure.toNat_field_at (c : ErrCode) (k : Fin 8) : (Failure.at c k).field.toNat < 8 :=
  lt_of_le_of_lt (Nat.mod_le _ _) k.isLt

/-- R115: a configuration check names no field, or the field whose descriptor is illegal. -/
theorem cfgAll_eq_some {s : State} {f : Failure} (h : cfgAll s = some f) :
    f = geometryError ∨ ∃ k : Fin 8, f = .at .configError k := by
  by_cases hg : GeometryLegal s
  · rw [cfgAll_of_legal_geometry hg] at h
    cases hm : s.mode with
    | fields =>
      rw [cfgMode, hm] at h
      obtain ⟨k, _, hk⟩ := List.exists_of_findSome?_eq_some h
      exact .inr ⟨k, cfgField_eq_some hk⟩
    | patterns =>
      have ht : ¬TableLegal s := fun ht => by
        rw [(cfgMode_eq_none_iff hg).2 (modeLegal_of_tableLegal hm ht)] at h
        cases h
      rw [cfgMode_of_illegal_table hm ht] at h
      exact .inl (Option.some.inj h).symm
  · rw [cfgAll_of_illegal hg] at h
    exact .inl (Option.some.inj h).symm

/-- R141, R157: a request check fails at a field (or, for a pattern, at index 0 or 1) with one of the three request
errors. -/
theorem requestCheck_eq_some {s : State} {f : Failure} (h : requestCheck s = some f) :
    ∃ (c : ErrCode) (k : Fin 8), (c = .missingField ∨ c = .outOfRange ∨ c = .conflictingFields) ∧ f = .at c k := by
  cases hm : s.mode with
  | fields =>
    rw [requestCheck_of_fields hm, fieldCheck] at h
    split at h
    · next g hg =>
      obtain ⟨k, _, hk⟩ := List.exists_of_findSome?_eq_some hg
      exact ⟨_, k, .inl rfl, (Option.some.inj h).symm.trans (missingField_eq_some hk)⟩
    · split at h
      · next g hg =>
        obtain ⟨k, _, hk⟩ := List.exists_of_findSome?_eq_some hg
        exact ⟨_, k, .inr (.inl rfl), (Option.some.inj h).symm.trans (outOfRangeField_eq_some hk)⟩
      · obtain ⟨c, _, hc⟩ := List.exists_of_findSome?_eq_some h
        exact ⟨_, (s.conflict c).fa, .inr (.inr rfl), conflictFailure_eq_some hc⟩
  | patterns =>
    rw [requestCheck_of_patterns hm, patternCheck] at h
    split at h
    · exact ⟨_, 0, .inr (.inl rfl), (Option.some.inj h).symm⟩
    · split at h
      · exact ⟨_, 1, .inr (.inl rfl), (Option.some.inj h).symm⟩
      · cases h

section
variable {s : State} {f : Failure} {op : Byte}

/-- R114: the six commands that check the geometry report its error. -/
theorem geometryError_listed (hop : op = 4 ∨ op = 5 ∨ op = 6 ∨ op = 7 ∨ op = 8 ∨ op = 9) : geometryError.Listed op :=
  ⟨hop, .inr rfl⟩

/-- R116: the four commands that check the whole configuration report its errors. -/
theorem cfgAll_listed (h : cfgAll s = some f) (hop : op = 6 ∨ op = 7 ∨ op = 8 ∨ op = 9) : f.Listed op := by
  obtain rfl | ⟨k, rfl⟩ := cfgAll_eq_some h
  · exact geometryError_listed (.inr (.inr hop))
  · exact ⟨.inr (.inr hop), .inl (Failure.toNat_field_at .configError k)⟩

/-- R126, R165: VALIDATE and DECODE report the frame errors, which name no field. -/
theorem frameCheck_listed (h : frameCheck s = some f) (hop : op = 4 ∨ op = 7) : f.Listed op := by
  obtain rfl | rfl | rfl | rfl := frameCheck_eq_some h
  · exact ⟨hop.imp_right .inr, rfl⟩
  · exact ⟨hop, rfl⟩
  · exact ⟨hop, rfl⟩
  · exact ⟨hop, rfl⟩

/-- R127, R165: DEMOD and DECODE report an ambiguous pair, which names no field. -/
theorem ambiguousBit_listed (hop : op = 5 ∨ op = 7) : (Failure.plain .ambiguousBit).Listed op := ⟨hop, rfl⟩

/-- R137, R153: BVDECODE and DECODE report the field whose test failed, or that no pattern matched. -/
theorem decodeMessage_listed (h : decodeMessage s = .error f) (hop : op = 6 ∨ op = 7) : f.Listed op := by
  cases hm : s.mode with
  | fields =>
    rw [decodeMessage_of_fields hm] at h
    have hnot : ¬∀ k, FieldDecodes s k := fun hd => by
      rw [fieldDecode_of_decodes hd] at h
      cases h
    obtain ⟨k, c, _, hc, he⟩ := fieldDecode_of_not_decodes hnot
    obtain rfl := Except.error.inj (h.symm.trans he)
    have hk := Failure.toNat_field_at c k
    have hcode : (Failure.at c k).code.byte = 0x10 ∨ (Failure.at c k).code.byte = 0x11 := by
      show c.byte = 0x10 ∨ c.byte = 0x11
      rw [hc, fieldErrorCode]
      split <;> simp
    obtain h10 | h11 := hcode
    · exact ⟨by rw [h10]; exact hop, by rw [h10]; exact hk⟩
    · exact ⟨by rw [h11]; exact hop, by rw [h11]; exact hk⟩
  | patterns =>
    rw [decodeMessage_of_patterns hm] at h
    obtain rfl := patternDecode_eq_error h
    exact ⟨hop, rfl⟩

/-- R165: DECODE reports every failure of its steps after the configuration checks. -/
theorem decodeTrain_failure_listed (h : (decodeTrain s).failure = some f) : f.Listed 7 := by
  obtain ⟨g, hg, ht⟩ | ⟨_, _, _, ht⟩ | ⟨_, _, g, hg, ht⟩ | ⟨_, _, _, _, ht⟩ := decodeTrain_cases s <;> rw [ht] at h
  · exact Option.some.inj h ▸ frameCheck_listed hg (.inr rfl)
  · exact Option.some.inj h ▸ ambiguousBit_listed (.inr rfl)
  · exact Option.some.inj h ▸ decodeMessage_listed hg (.inr rfl)
  · cases h

/-- R167, R168: REQCHK and ENCODE report the request errors. -/
theorem requestCheck_listed (h : requestCheck s = some f) (hop : op = 8 ∨ op = 9) : f.Listed op := by
  obtain ⟨c, k, hc, rfl⟩ := requestCheck_eq_some h
  have hk := Failure.toNat_field_at c k
  obtain rfl | rfl | rfl := hc
  · exact ⟨hop, hk⟩
  · exact ⟨hop, hk⟩
  · exact ⟨hop, hk⟩

end

/-! ## The words a command writes are legal (R18, R26, R127) -/

/-- R18: a success is legal with a command's opcode; only DEMOD and DECODE set AMB. -/
theorem statusLegal_okStatus {op : Byte} {amb : Bool} (hop : op.toNat ≤ 9) (hamb : amb = true → op = 5 ∨ op = 7) :
    StatusLegal (okStatus op amb) := by
  obtain ⟨hlast, hfield, hcode, _, hbit, hok, _⟩ := okStatus_fields op amb
  unfold StatusLegal
  rw [hlast, hfield, hcode, hbit]
  exact .inr ⟨hamb, .inl ⟨hok, rfl, rfl, hop⟩⟩

/-- R18: a failure the tables list is legal; only DEMOD and DECODE set AMB. -/
theorem statusLegal_failStatus {op : Byte} {amb : Bool} {f : Failure} (hf : f.Listed op)
    (hamb : amb = true → op = 5 ∨ op = 7) : StatusLegal (failStatus op amb f) := by
  obtain ⟨hlast, hfield, hcode, _, hbit, hok, _⟩ := failStatus_fields op amb f
  unfold StatusLegal
  rw [hlast, hfield, hcode, hbit]
  exact .inr ⟨hamb, .inr ⟨hok, hf.reported, hf.field⟩⟩

/-- R162: MSG_STAT without a message holds the code of a decode's failure. -/
theorem messageStatLegal_noMessageStat {op : Byte} {f : Failure} (hf : f.Listed op) (hop : op = 6 ∨ op = 7) :
    MessageStatLegal (noMessageStat f.code) := by
  have hcode := f.code.byte.isLt
  rw [noMessageStat_eq_noMessageWord]
  refine .inl ⟨getLsbD_ofNat_eq ?_, getLsbD_ofNat_eq ?_, extractLsb'_ofNat_eq ?_, .inr ?_⟩
  · simp; omega
  · simp; omega
  · simp
  · rw [errCode_noMessageWord]
    obtain rfl | rfl := hop
    · exact .inr hf.reported
    · exact .inl hf.reported

/-- R138: a field message has VALID set, KIND 0 and no code, whatever PRESENT holds. -/
theorem messageStatLegal_fieldMessageStat (p : Byte) : MessageStatLegal (fieldMessageStat p) := by
  refine .inr (.inl ⟨?_, ?_, errCode_fieldMessageStat p⟩)
  · rw [getLsbD_fieldMessageStat]; rfl
  · rw [getLsbD_fieldMessageStat, BitVec.getLsbD_of_ge p 30 (by decide)]; rfl

theorem messageStatLegal_patternMessageStat : MessageStatLegal patternMessageStat := by
  unfold MessageStatLegal
  exact .inr (.inr (by decide))

/-- R127: `demod_body()` writes an index below BV_LEN, or none. -/
theorem ambPosLegal_demodBody (s : State) : AmbPosLegal (demodBody s).ambPos := by
  rw [demodBody_ambPos]
  cases h : firstAmbiguous s with
  | none => exact .inl rfl
  | some i =>
    have hi : i < s.bvLen := List.mem_range.1 (List.mem_of_find?_eq_some h)
    have hlen := bvLen_le s
    refine .inr ?_
    show i % 2 ^ 32 ≤ 254
    omega

/-! ## What keeps MSG_STAT and AMB_POS legal -/

/-- The part of `ReportsLegal` a command starts from: STATUS it always writes anew (R161). -/
structure MessageReportsLegal (s : State) : Prop where
  msgStat : MessageStatLegal s.msgStat
  ambPos : AmbPosLegal s.ambPos

section
variable {s t : State}

theorem messageReportsLegal_demodBody (hs : MessageReportsLegal s) : MessageReportsLegal (demodBody s) :=
  ⟨hs.msgStat, ambPosLegal_demodBody s⟩

theorem messageReportsLegal_noMessage (hs : MessageReportsLegal s) {op : Byte} {f : Failure} (hf : f.Listed op)
    (hop : op = 6 ∨ op = 7) : MessageReportsLegal { s with msgStat := noMessageStat f.code } :=
  ⟨messageStatLegal_noMessageStat hf hop, hs.ambPos⟩

/-- R138, R154: a message decode writes one of the two message words to MSG_STAT. -/
theorem messageReportsLegal_decodeMessage (hs : MessageReportsLegal s) (h : decodeMessage s = .ok t) :
    MessageReportsLegal t := by
  obtain ⟨_, hf⟩ | ⟨_, hp⟩ := decodeMessage_eq_ok h
  · obtain ⟨_, rfl⟩ := fieldDecode_eq_ok hf
    exact ⟨messageStatLegal_fieldMessageStat _, hs.ambPos⟩
  · obtain ⟨_, _, _, _, _, rfl⟩ := patternDecode_eq_ok hp
    exact ⟨messageStatLegal_patternMessageStat, hs.ambPos⟩

theorem messageReportsLegal_decodeTrain (hs : MessageReportsLegal s) : MessageReportsLegal (decodeTrain s).state := by
  obtain ⟨_, h⟩ | ⟨_, _, h⟩ | ⟨_, ht, h⟩ := decodeTrain_ends s <;> rw [h]
  · exact hs
  · exact messageReportsLegal_demodBody hs
  · exact messageReportsLegal_decodeMessage (messageReportsLegal_demodBody hs) ht

/-- R169: the echo of an ENCODE leaves the code of the failure DECODE would report. -/
theorem messageReportsLegal_echoDecode (hs : MessageReportsLegal s) : MessageReportsLegal (echoDecode s) := by
  unfold echoDecode
  split
  · exact messageReportsLegal_decodeTrain hs
  · next f hf =>
    exact messageReportsLegal_noMessage (messageReportsLegal_decodeTrain hs) (decodeTrain_failure_listed hf) (.inr rfl)

end

/-! ## Every command and every input leaves legal reports (R173) -/

/-- The invariant of O19 on an outcome: whatever next state it gives has legal reports. -/
def LeavesLegalReports (r : Result) : Prop := ∀ t, r = .next t → ReportsLegal t

theorem leavesLegalReports_next {s : State} (hs : ReportsLegal s) : LeavesLegalReports (.next s) := by
  rintro t ⟨⟩
  exact hs

section
variable {s : State} {op : Byte} {amb : Bool} {f : Failure}

theorem leavesLegalReports_finish (hs : MessageReportsLegal s) (hop : op.toNat ≤ 9)
    (hamb : amb = true → op = 5 ∨ op = 7) : LeavesLegalReports (finish op amb s) :=
  leavesLegalReports_next ⟨statusLegal_okStatus hop hamb, hs.msgStat, hs.ambPos⟩

theorem leavesLegalReports_fail (hs : MessageReportsLegal s) (hf : f.Listed op) (hamb : amb = true → op = 5 ∨ op = 7) :
    LeavesLegalReports (fail op amb f s) :=
  leavesLegalReports_next ⟨statusLegal_failStatus hf hamb, hs.msgStat, hs.ambPos⟩

theorem leavesLegalReports_noMessage (hs : MessageReportsLegal s) (hf : f.Listed op) (hop : op = 6 ∨ op = 7)
    (hamb : amb = true → op = 5 ∨ op = 7) : LeavesLegalReports (noMessage op amb f s) :=
  leavesLegalReports_fail (messageReportsLegal_noMessage hs hf hop) hf hamb

/-- R173: each ending of each command is in the tables. -/
theorem leavesLegalReports_exec (i : Instr) (hs : MessageReportsLegal s) : LeavesLegalReports (exec i s) := by
  cases i with
  | nop => exact leavesLegalReports_finish hs (by decide) nofun
  | inrange => exact leavesLegalReports_finish ⟨hs.msgStat, hs.ambPos⟩ (by decide) nofun
  | b2v start stop =>
    show LeavesLegalReports (execB2v start stop s)
    obtain ⟨_, h⟩ | ⟨_, _, h⟩ := execB2v_cases start stop s <;> rw [h]
    · exact leavesLegalReports_fail hs ⟨rfl, rfl⟩ nofun
    · exact leavesLegalReports_finish ⟨hs.msgStat, hs.ambPos⟩ (by decide) nofun
  | v2b => exact leavesLegalReports_finish ⟨hs.msgStat, hs.ambPos⟩ (by decide) nofun
  | validate =>
    show LeavesLegalReports (execValidate s)
    obtain ⟨_, h⟩ | ⟨_, _, hf, h⟩ | ⟨_, _, h⟩ := execValidate_cases s <;> rw [h]
    · exact leavesLegalReports_fail hs (geometryError_listed (.inl rfl)) nofun
    · exact leavesLegalReports_fail hs (frameCheck_listed hf (.inl rfl)) nofun
    · exact leavesLegalReports_finish hs (by decide) nofun
  | demod =>
    show LeavesLegalReports (execDemod s)
    obtain ⟨_, h⟩ | ⟨_, _, h⟩ | ⟨_, _, _, h⟩ | ⟨_, _, _, h⟩ := execDemod_cases s <;> rw [h]
    · exact leavesLegalReports_fail hs (geometryError_listed (.inr (.inl rfl))) nofun
    · exact leavesLegalReports_fail hs ⟨.inr (.inl rfl), rfl⟩ nofun
    · exact leavesLegalReports_fail (messageReportsLegal_demodBody hs) (ambiguousBit_listed (.inl rfl))
        fun _ => .inl rfl
    · exact leavesLegalReports_finish (messageReportsLegal_demodBody hs) (by decide) fun _ => .inl rfl
  | bvdecode =>
    show LeavesLegalReports (execBvdecode s)
    obtain ⟨_, hf, h⟩ | ⟨_, _, _, hf, h⟩ | ⟨_, _, _, ht, h⟩ := execBvdecode_cases s <;> rw [h]
    · exact leavesLegalReports_noMessage hs (cfgAll_listed hf (.inl rfl)) (.inl rfl) nofun
    · exact leavesLegalReports_noMessage hs (decodeMessage_listed hf (.inl rfl)) (.inl rfl) nofun
    · exact leavesLegalReports_finish (messageReportsLegal_decodeMessage hs ht) (by decide) nofun
  | decode =>
    show LeavesLegalReports (execDecode s)
    obtain ⟨_, hf, h⟩ | ⟨_, _, _, hf, h⟩ | ⟨_, _, _, h⟩ := execDecode_cases s <;> rw [h]
    · exact leavesLegalReports_noMessage hs (cfgAll_listed hf (.inr (.inl rfl))) (.inr rfl) nofun
    · exact leavesLegalReports_noMessage (messageReportsLegal_decodeTrain hs) (decodeTrain_failure_listed hf) (.inr rfl)
        fun _ => .inr rfl
    · exact leavesLegalReports_finish (messageReportsLegal_decodeTrain hs) (by decide) fun _ => .inr rfl
  | reqchk =>
    show LeavesLegalReports (execReqchk s)
    obtain ⟨_, hf, h⟩ | ⟨_, _, _, hf, h⟩ | ⟨_, _, _, h⟩ := execReqchk_cases s <;> rw [h]
    · exact leavesLegalReports_fail hs (cfgAll_listed hf (.inr (.inr (.inl rfl)))) nofun
    · exact leavesLegalReports_fail hs (requestCheck_listed hf (.inl rfl)) nofun
    · exact leavesLegalReports_finish hs (by decide) nofun
  | encode =>
    show LeavesLegalReports (execEncode s)
    obtain ⟨_, hf, h⟩ | ⟨_, _, _, hf, h⟩ | ⟨_, _, _, h⟩ := execEncode_cases s <;> rw [h]
    · exact leavesLegalReports_fail hs (cfgAll_listed hf (.inr (.inr (.inr rfl)))) nofun
    · exact leavesLegalReports_fail hs (requestCheck_listed hf (.inr rfl)) nofun
    · have hsynth : MessageReportsLegal (synth s (encodeCanvas s)) := ⟨hs.msgStat, hs.ambPos⟩
      exact leavesLegalReports_finish (messageReportsLegal_echoDecode hsynth) (by decide) nofun

/-- R83: IllegalCommand is reported with whatever OP field the word carries. -/
theorem leavesLegalReports_runCommand (w : Word) (hs : MessageReportsLegal s) :
    LeavesLegalReports (runCommand w s) := by
  unfold runCommand
  split
  · exact leavesLegalReports_exec _ hs
  · exact leavesLegalReports_fail hs ⟨trivial, rfl⟩ nofun

end

section
variable {s t : State}

/-- R18, R23, R26: whether the reports are legal is settled by three registers. -/
theorem reportsLegal_congr (hs : ReportsLegal s) (hstatus : t.status = s.status) (hmsg : t.msgStat = s.msgStat)
    (hamb : t.ambPos = s.ambPos) : ReportsLegal t := by
  rw [ReportsLegal, hstatus, hmsg, hamb]
  exact hs

theorem reportsLegal_withPort (hs : ReportsLegal s) (inputs : List Input) (values : List Word) (b : Bool) :
    ReportsLegal { s with pending := inputs, replies := values, resetAsserted := b } :=
  reportsLegal_congr hs rfl rfl rfl

/-- R48: no store of the host reaches a report. -/
theorem reportsLegal_writeReg (hs : ReportsLegal s) (r : Reg) (v : Word) : ReportsLegal (writeReg s r v) := by
  unfold writeReg
  cases r <;> exact reportsLegal_congr hs rfl rfl rfl

/-- R189: a soft reset leaves the reports of State.reset. -/
theorem reportsLegal_softReset (s : State) : ReportsLegal (softReset s) :=
  reportsLegal_congr reportsLegalAtReset rfl rfl rfl

/-- R188: a power-on reset leaves the reports of State.reset. -/
theorem reportsLegal_powerOnReset (s : State) : ReportsLegal (powerOnReset s) :=
  reportsLegal_congr reportsLegalAtReset rfl rfl rfl

theorem reportsLegal_driveReset (hs : ReportsLegal s) (b : Bool) : ReportsLegal (driveReset s b) := by
  unfold driveReset
  split
  · exact reportsLegal_withPort hs s.pending s.replies true
  · split
    · exact reportsLegal_powerOnReset s
    · exact hs

theorem leavesLegalReports_portWrite (hs : ReportsLegal s) (off : Nat) (v : Word) :
    LeavesLegalReports (portWrite s off v) := by
  unfold portWrite
  split
  · next r _ =>
    obtain h | h | h := writeMapped_cases s r v <;> rw [h]
    · obtain ⟨_, hmsg, hamb⟩ := hs
      exact leavesLegalReports_runCommand v ⟨hmsg, hamb⟩
    · exact leavesLegalReports_next (reportsLegal_softReset s)
    · exact leavesLegalReports_next (reportsLegal_writeReg hs r v)
  · exact leavesLegalReports_next hs

theorem leavesLegalReports_acceptInput (hs : ReportsLegal s) (i : Input) : LeavesLegalReports (acceptInput s i) := by
  cases i with
  | read addr size =>
    rw [acceptInput]
    split
    · rintro t ⟨⟩
    · exact leavesLegalReports_next (reportsLegal_withPort hs s.pending _ s.resetAsserted)
  | write addr size v =>
    rw [acceptInput]
    split
    · rintro t ⟨⟩
    · exact leavesLegalReports_portWrite hs addr.toNat v
  | resetLine asserted => exact leavesLegalReports_next (reportsLegal_driveReset hs asserted)

end

/-- Settles O19, by the form of the input the step takes: a command ends with words the tables list, a store reaches no
report, and a reset leaves the reset values. -/
theorem stepKeepsReportsLegal : Obligations.StepKeepsReportsLegal := by
  unfold Obligations.StepKeepsReportsLegal
  intro s t hs h
  cases hpending : s.pending with
  | nil =>
    rw [step_idle hpending] at h
    exact leavesLegalReports_next hs t h
  | cons i rest =>
    rw [step_cons hpending] at h
    exact leavesLegalReports_acceptInput (reportsLegal_withPort hs rest s.replies s.resetAsserted) i t h

end Sys2Proof.Machine
end

section
/-! The family of `70_reset_and_hazards.md`: what a write to CTRL and a release of the reset input do (R188, R189), and
the commands of a machine that has just been reset (R190). -/

namespace Sys2Proof.Machine

/-! ## Soft reset (R189) -/

/-- R189: a write to CTRL with SRST set stores nothing and resets. -/
theorem writeMapped_ctrl_of_srst (s : State) {v : Word} (h : v.getLsbD 31 = true) :
    writeMapped s .ctrl v = .next (softReset s) := by
  rw [writeMapped, if_neg (by decide), if_pos ⟨rfl, h⟩]

/-- R47: CTRL keeps the bits of its three fields. -/
theorem writeReg_ctrl (s : State) (v : Word) : writeReg s .ctrl v = { s with ctrl := v &&& 0x7 } := rfl

/-- Settles O15: bit 31 of the word selects the soft reset or the store. -/
theorem softResetKeepsPatternsAndPulses : Obligations.SoftResetKeepsPatternsAndPulses := by
  unfold Obligations.SoftResetKeepsPatternsAndPulses
  intro s v rest h hr
  have hstep : step s = writeMapped { s with pending := rest } .ctrl v := step_write_register (r := .ctrl) hr h
  refine ⟨fun hsrst => ?reset, fun hsrst => ?store⟩
  case reset => rw [hstep, writeMapped_ctrl_of_srst _ hsrst, softReset, hr]
  case store => rw [hstep, writeMapped_store _ (by decide) fun _ => hsrst, writeReg_ctrl]

/-! ## The reset input (R188) -/

/-- R188: the release of an asserted reset input is a power-on reset. -/
theorem driveReset_release {s : State} (h : s.resetAsserted = true) : driveReset s false = powerOnReset s := by
  rw [driveReset, if_neg Bool.false_ne_true, if_pos h]

theorem step_release {s : State} {rest : List Input} (hr : s.resetAsserted = true)
    (h : s.pending = .resetLine false :: rest) : step s = .next (powerOnReset { s with pending := rest }) := by
  rw [step_cons h, acceptInput]
  exact congrArg Host.Outcome.next (driveReset_release hr)

/-- Settles O16: the release is a power-on reset, after which the registers read their reset values. -/
theorem releasedResetInputResetsTheRegisters : Obligations.ReleasedResetInputResetsTheRegisters := by
  unfold Obligations.ReleasedResetInputResetsTheRegisters
  intro s rest h hr
  exact ⟨_, step_release hr h, rfl, rfl, rfl, fun _ => readReg_powerOnReset _⟩

/-! ## The commands after a reset (R190) -/

/-- R114: no geometry has a header of length 0. -/
theorem not_geometryLegal_of_hdrLen_zero {s : State} (h : s.hdrLen = 0) : ¬GeometryLegal s := by
  rintro ⟨hheader, _⟩
  rw [State.headerLength, h] at hheader
  revert hheader
  decide

/-- R58: every reset leaves HDR_LEN and EPS_NUM 0. -/
theorem configuration_after_reset {u s : State} (h : s = State.reset ∨ s = softReset u ∨ s = powerOnReset u) :
    s.hdrLen = 0 ∧ s.epsNum = 0 := by
  obtain rfl | rfl | rfl := h
  · exact ⟨rfl, rfl⟩
  · exact ⟨softReset_hdrLen u, softReset_epsNum u⟩
  · exact ⟨powerOnReset_hdrLen u, powerOnReset_epsNum u⟩

theorem eps_of_epsNum_zero {s : State} (h : s.epsNum = 0) : s.eps = 0 := by
  rw [State.eps, h]
  decide

/-- R114: the failure word of the six frame-level commands under an illegal geometry, as the sum of its fields. -/
theorem status_of_illegal_geometry {s : State} (hg : ¬GeometryLegal s) {i : Instr}
    (hi : i = .validate ∨ i = .demod ∨ i = .bvdecode ∨ i = .decode ∨ i = .reqchk ∨ i = .encode) :
    ∃ t, exec i s = .next t ∧ t.status = failWord (opcode i) 0x31 0xFF false := by
  obtain ⟨hvalidate, hdemod, hbvdecode, hdecode, hreqchk, hencode⟩ := exec_of_illegal_geometry hg
  obtain rfl | rfl | rfl | rfl | rfl | rfl := hi
  · exact ⟨_, hvalidate, rfl⟩
  · exact ⟨_, hdemod, rfl⟩
  · exact ⟨_, hbvdecode, rfl⟩
  · exact ⟨_, hdecode, rfl⟩
  · exact ⟨_, hreqchk, rfl⟩
  · exact ⟨_, hencode, rfl⟩

/-- R98, R108, R109, R163: the leaf commands succeed in every state, B2V on every legal window. -/
theorem leaf_command_succeeds (s : State) {i : Instr}
    (hi : i = .nop ∨ i = .inrange ∨ i = .v2b ∨ ∃ a b, a ≤ b ∧ b - a < 32 ∧ i = .b2v a b) :
    ∃ t, exec i s = .next t ∧ t.status = okWord (opcode i) false := by
  obtain rfl | rfl | rfl | ⟨a, b, hab, hw, rfl⟩ := hi
  · exact ⟨_, rfl, rfl⟩
  · exact ⟨_, exec_inrange s, rfl⟩
  · exact ⟨_, exec_v2b s, rfl⟩
  · have hstatus : (0x02FF0002 : Word) = okWord (opcode (.b2v a b)) false := by
      rw [opcode]
      decide
    exact ⟨_, exec_b2v_of_window hab hw s, hstatus⟩

/-- R90: with the epsilon 0, only the reference itself is accepted. -/
theorem accepts_iff_eq_of_eps_zero {s : State} (h : s.eps = 0) (obs ref : Word) :
    s.accepts obs ref = true ↔ obs = ref := by
  constructor
  · rw [State.accepts, h]
    exact eq_of_matchesRef_of_bounds_eq (lowerBound_num_zero ref) (upperBound_num_zero ref)
  · rintro rfl
    exact accepts_self s obs

/-- Settles O14: after a reset the geometry is illegal and the epsilon is 0, and no leaf command reads the geometry. -/
theorem commandsAfterReset : Obligations.CommandsAfterReset := by
  unfold Obligations.CommandsAfterReset
  intro u s h
  obtain ⟨hhdr, heps⟩ := configuration_after_reset h
  have hg : ¬GeometryLegal s := not_geometryLegal_of_hdrLen_zero hhdr
  refine ⟨?bvLen, fun _ => status_of_illegal_geometry hg, fun _ => leaf_command_succeeds s,
    fun obs ref => ⟨_, exec_inrange _, ?accepted⟩⟩
  case bvLen => rw [readReg, bvLen_of_illegal hg]; rfl
  case accepted => exact (ite_eq_one_iff_eq_true _).trans (accepts_iff_eq_of_eps_zero (eps_of_epsNum_zero heps) obs ref)

end Sys2Proof.Machine
end
